-- ==== Sys2Proof/Word.lean ====
section
/-! DEFINITION. The widths of the G3864: one byte of a message (R185), and the unsigned 16-bit level of 00_scope.md "Levels". -/

namespace Sys2Proof

/-- One byte of a transaction, request, response, notice or stream word (R185, R191). -/
abbrev Byte := BitVec 8

/-- A level, and every other unsigned two-byte field that is read as a number or echoed (R185; 00_scope.md, "Levels"). -/
abbrev Level := BitVec 16

end Sys2Proof
end

