-- ==== Sys2Proof/Config.lean ====
section
/-! DEFINITION. The fixed sizes of the part, each with the rule that gives it, and the free values: what the manual leaves open. -/

namespace Sys2Proof.Config

/-- Claim pool entries (R6). -/
def poolEntries : Nat := 192
/-- Scene entries (R101). -/
def sceneEntries : Nat := 512
/-- Places in a request queue and in a response queue (R163, R164). -/
def queuePlaces : Nat := 8
/-- Places in a notice queue (R165). -/
def noticePlaces : Nat := 16
/-- The largest lost-notice count (R165). -/
def lostMax : Nat := 255
/-- The largest stream counter (R124). -/
def counterMax : Nat := 65535
/-- Words the staging buffer holds (R120). -/
def stagingWords : Nat := 131
/-- The largest body a SUBMIT can carry (R157, R158). -/
def bodyMax : Nat := 200
/-- PWM units in a frame (R140). -/
def frameUnits : Nat := 4096
/-- Core clocks in one tick of the 1 ms time base: 32 MHz (00_scope.md, "Time"). -/
def clocksPerTick : Nat := 32000

/-- FREE VALUE: the order in which timer expiries and a frame start that fall at one core clock are taken.
The manual says of each pair "either may be taken first" (R131, R149, R145 and others); notes/assumptions/5.md. -/
opaque freeOrder : Nat → Nat

/-- FREE VALUE: where a SOURCE_STATE of the emptied report goes among the other notices of the same fade step.
R165 lets notices of different blocks raised at the same time be placed in either order; notes/assumptions/6.md. -/
opaque freePlace : Nat → Nat

/-- FREE VALUE: whether the executor ends its execution at this core clock. The manual gives an execution no duration
(R168); notes/assumptions/4.md. -/
opaque executionEnds : Nat → Bool

end Sys2Proof.Config
end

