-- ==== Sys2Proof/Syntax.lean ====
section
/-! DEFINITION. The commands of the part: one constructor for each row of spec/opcode_table.json, and the types of their operands. -/

namespace Sys2Proof

/-- The three control ports, which carry the names of their sources (00_scope.md, "Ports and sources"). -/
inductive Port where
  | cp0 | cp1 | cp2
  deriving DecidableEq, Repr

/-- What the processor does on a link within a transaction (R154): it clocks bits in on SDI, one at each rising edge of
the clock, or it drives select high. -/
inductive LinkAct where
  /-- Rising clock edges, with the value SDI holds at each. -/
  | clock (sdi : List Bool)
  /-- The deassertion of select, which ends the transaction. -/
  | deassert
  deriving DecidableEq, Repr

/-- The 16 samples of one bit on the stream line, sample 0 in bit 0 (R118). -/
abbrev BitSamples := BitVec 16

/-- The samples of one word on the stream line: start bit, eight data bits with the least significant first, mark bit,
stop bit (R118); and, before them, the samples since the receiver last began to seek, up to the fall that begins the word. It
begins to seek at the end of a word, at a false start, at a CONFIG_STREAM and at the end of a reset (R118, R119, R135, R138), so
`lead` is empty where the word was being sampled when one of the last two came (notes/assumptions/11.md). -/
structure WordSamples where
  lead  : List Bool
  start : BitSamples
  data  : Vector BitSamples 8
  mark  : BitSamples
  stop  : BitSamples
  deriving DecidableEq, Repr

/-- The samples of a start bit alone, with those before the fall as in WordSamples (R118). -/
structure StartSamples where
  lead  : List Bool
  start : BitSamples
  deriving DecidableEq, Repr

/-- The commands. A request row has no operand: what it acts on is the request in execution, which the executor took from
a port's request queue (R167, R168). -/
inductive Instr where
  /-- SUBMIT (R157, R158). -/
  | submit (p : Port) (act : LinkAct)
  /-- COLLECT (R160). -/
  | collect (p : Port) (act : LinkAct)
  /-- COLLECT_NOTICE (R161). -/
  | collectNotice (p : Port) (act : LinkAct)
  /-- STATUS (R161). -/
  | status (p : Port) (act : LinkAct)
  /-- UNRECOGNISED_TRANSACTION: a transaction of any other code, or one that ends before byte 0 completes (R155). -/
  | unrecognisedTransaction (p : Port) (act : LinkAct)
  /-- UNKNOWN_KIND (R169). -/
  | unknownKind
  /-- ATTACH (R65). -/
  | attach
  /-- DETACH (R67). -/
  | detach
  /-- PING (R69). -/
  | ping
  /-- SET_LEVELS (R87). -/
  | setLevels
  /-- RELEASE (R92). -/
  | release
  /-- RELEASE_ALL (R94). -/
  | releaseAll
  /-- RECALL (R113). -/
  | recall
  /-- HOLD (R146). -/
  | hold
  /-- UNHOLD (R147). -/
  | unhold
  /-- DEFINE_SCENE (R106). -/
  | defineScene
  /-- ERASE_SCENE (R107). -/
  | eraseScene
  /-- CAPTURE_SCENE (R108). -/
  | captureScene
  /-- READ_SCENE (R110). -/
  | readScene
  /-- READ_STATUS (R175). -/
  | readStatus
  /-- READ_CHANNEL (R177). -/
  | readChannel
  /-- READ_LEVELS (R179). -/
  | readLevels
  /-- READ_SOURCE (R180). -/
  | readSource
  /-- READ_STREAM (R136). -/
  | readStream
  /-- CONFIG_CHANNELS (R42). -/
  | configChannels
  /-- CONFIG_SOURCE (R79). -/
  | configSource
  /-- CONFIG_STREAM (R134). -/
  | configStream
  /-- CONFIG_OUTPUT (R152). -/
  | configOutput
  /-- GRANT (R78). -/
  | grant
  /-- RESTART (R182). -/
  | restart
  /-- FADE_STEP: the step timer expires (R47). -/
  | fadeStep
  /-- LAPSE: the keepalive of a port's source expires (R71). -/
  | lapse (p : Port)
  /-- HOLD_TIMER_EXPIRY (R148). -/
  | holdTimerExpiry (p : Port)
  /-- LOSS_TIMER_EXPIRY (R130). -/
  | lossTimerExpiry
  /-- FRAME_START (R141). -/
  | frameStart
  /-- MARK_WORD (R121). -/
  | markWord (w : WordSamples)
  /-- STREAM_WORD: a word without a mark bit (R122). -/
  | streamWord (w : WordSamples)
  /-- FRAMING_ERROR: a word whose stop bit reads 0 (R119, R122). -/
  | framingError (w : WordSamples)
  /-- FALSE_START: a fall of the line whose start bit reads 1 (R118). -/
  | falseStart (start : StartSamples)
  /-- IDLE (R119, R123). -/
  | idle
  /-- POR: power-on reset begins (R183). -/
  | por
  /-- RST: the RESET pin is driven low (R183). -/
  | rst
  /-- RESET_END: the reset that lasts ends (R183). -/
  | resetEnd
  /-- SELECT_ASSERTION: a port's select is driven low (R154, R156). -/
  | selectAssertion (p : Port)
  deriving DecidableEq, Repr

end Sys2Proof
end

