-- ==== Sys2Proof/Decode.lean ====
section
/-! DEFINITION. Decoding: the table gives no row any bits, so no word spells a command. What the part itself decodes stands here
too: the bits of a link into bytes and transaction codes (R154, R155), and the samples of the stream line into words (R118, R119). -/

namespace Sys2Proof

/-- No row of spec/opcode_table.json has bits ("fields": [] in every row, no "fixed"), so no word spells a command. -/
def decodeTableWord (_nbits _w : Nat) : Option Instr := none

/-- Eight bits of a link as a byte, most significant bit first (R154). -/
def byteOfBits (bits : List Bool) : Byte :=
  bits.foldl (fun acc b => (acc <<< 1) ||| (if b then 1#8 else 0#8)) 0#8

/-- The bit of a byte that moves `k`-th on a link, counted from 0: the most significant first (R154). -/
def bitOfByte (b : Byte) (k : Nat) : Bool := b.getLsbD (7 - k)

/-- The eight bits of a byte in the order they move on a link (R154). -/
def bitsOfByte (b : Byte) : List Bool := (List.range 8).map (bitOfByte b)

/-- What a transaction is, once its code byte is complete (R155). -/
inductive Transaction where
  | submit | collect | collectNotice | status
  | unrecognised (code : Byte)
  deriving DecidableEq, Repr

/-- The transaction codes (R155, R187). -/
def transactionOfCode (c : Byte) : Transaction :=
  if c = 0x6C then .submit
  else if c = 0x93 then .collect
  else if c = 0x95 then .collectNotice
  else if c = 0xC1 then .status
  else .unrecognised c

/-- The value of a bit of the stream line: the majority of its samples 7, 8 and 9 (R118). -/
def vote (b : BitSamples) : Bool :=
  (b.getLsbD 7 && b.getLsbD 8) || (b.getLsbD 7 && b.getLsbD 9) || (b.getLsbD 8 && b.getLsbD 9)

/-- The three samples are not all equal (R118). -/
def noisy (b : BitSamples) : Bool :=
  !(b.getLsbD 7 == b.getLsbD 8 && b.getLsbD 8 == b.getLsbD 9)

/-- What the receiver hands on after sampling a word (R118, R119). -/
inductive LineWord where
  /-- The start bit read 1: no word is formed. -/
  | falseStart
  /-- The stop bit read 0: data value and mark bit are not used. -/
  | framing
  /-- A word without framing error: its data value, its mark bit, its noise mark. -/
  | word (data : Byte) (mark noise : Bool)
  deriving DecidableEq, Repr

/-- The data value of a word: bit `i` of the value is data bit `i`, the least significant first on the line (R118). -/
def wordData (w : WordSamples) : Byte :=
  byteOfBits ((w.data.toList.map vote).reverse)

/-- The noise mark belongs to the whole word, whichever of its bits disagreed (R118). -/
def wordNoise (w : WordSamples) : Bool :=
  noisy w.start || w.data.toList.any noisy || noisy w.mark || noisy w.stop

/-- A sampled word as the packet logic gets it (R118, R119). -/
def lineWord (w : WordSamples) : LineWord :=
  if vote w.start then .falseStart
  else if vote w.stop then .word (wordData w) (vote w.mark) (wordNoise w)
  else .framing

end Sys2Proof
end

