-- ==== Sys2Proof/Machine/State.lean ====
section
/-! DEFINITION. The state of the part, block by block as 00_scope.md "Block overview" lists them, and the state right after reset.
Plain data throughout. -/

namespace Sys2Proof.Machine
open Sys2Proof

/-! ### Names -/

/-- A channel, 0 to 63 (00_scope.md, "Channels"). -/
abbrev Chan := Fin 64

/-- The four sources (00_scope.md, "Sources and priorities"). -/
inductive Source where
  | cp0 | cp1 | cp2 | str
  deriving DecidableEq, Repr

/-- One value for each control port. -/
structure PerPort (α : Type) where
  cp0 : α
  cp1 : α
  cp2 : α
  deriving DecidableEq, Repr

/-- One value for each source. -/
structure PerSource (α : Type) where
  cp0 : α
  cp1 : α
  cp2 : α
  str : α
  deriving DecidableEq, Repr

/-! ### CST: the Claim Store -/

/-- The fade record (R43). -/
structure FadeRecord where
  /-- Level the fade started from. -/
  start : Level
  /-- Duration in fade steps, 1 to 65535. -/
  duration : Nat
  /-- Steps taken, 0 to duration - 1. -/
  elapsed : Nat
  /-- Tag of the request that began the fade, 0 for a loss release. -/
  tag : Byte
  deriving DecidableEq, Repr

/-- The state of a claim, with the fade record it carries in it: none in STEADY, exactly one otherwise (R2, R43). -/
inductive ClaimState where
  | steady
  | fading (f : FadeRecord)
  | releasing (f : FadeRecord)
  deriving DecidableEq, Repr

/-- A claim (R1). Its channel is the list that holds it. -/
structure Claim where
  source : Source
  state : ClaimState
  level : Level
  target : Level
  notify : Bool
  watch : Bool
  deriving DecidableEq, Repr

/-- The Claim Store: the claim list of each channel, front first (R3, R4), and the counts it keeps (R6, R8). The reservation
is the stream window count, held in the stream source record (R6, R127). -/
structure ClaimStore where
  lists : Vector (List Claim) 64
  /-- Free entries. -/
  free : Nat
  /-- Reserved-unused entries. -/
  reservedUnused : Nat
  /-- Claim count of each source. -/
  counts : PerSource Nat
  deriving DecidableEq, Repr

/-! ### LRS: the Level Resolver -/

inductive Polarity where
  | activeHigh | activeLow
  deriving DecidableEq, Repr

inductive MergeMode where
  | latest | peak
  deriving DecidableEq, Repr

/-- The configuration record of a channel (R25). -/
structure ChannelConfig where
  enabled : Bool
  polarity : Polarity
  mode : MergeMode
  ceiling : Level
  park : Level
  deriving DecidableEq, Repr

/-- The resolved record of a channel (R27). -/
structure Resolved where
  level : Level
  leader : Option Source
  deriving DecidableEq, Repr

structure LevelResolver where
  config : Vector ChannelConfig 64
  resolved : Vector Resolved 64
  deriving DecidableEq, Repr

/-! ### FEN: the Fade Engine -/

/-- The step period in ms and the step timer: none is STOPPED, some k is RUNNING with its expiry at the k-th tick from now
(R45). -/
structure FadeEngine where
  period : Nat
  timer : Option Nat
  deriving DecidableEq, Repr

/-! ### SST: the Session Table -/

inductive SessionState where
  | detached | attached | detaching | lapsed
  deriving DecidableEq, Repr

inductive LossPolicy where
  | hold | release
  deriving DecidableEq, Repr

/-- A rights set (R77). -/
structure Rights where
  config : Bool
  claim : Bool
  observe : Bool
  deriving DecidableEq, Repr

/-- A subscriptions set (R76). -/
structure Subscriptions where
  stream : Bool
  sources : Bool
  scenes : Bool
  deriving DecidableEq, Repr

/-- The source record of a control-port source (R63). Its claim count is the one the Claim Store keeps (R8). -/
structure SourceRecord where
  state : SessionState
  priority : Fin 8
  rights : Rights
  /-- Keepalive period in units of 10 ms, 0 for off. -/
  keepalivePeriod : Nat
  /-- Keepalive remaining in ms, 0 when the timer is stopped. -/
  keepaliveRemaining : Nat
  lossPolicy : LossPolicy
  lossFade : Nat
  subscriptions : Subscriptions
  deriving DecidableEq, Repr

/-! ### SCS: the Scene Store -/

/-- A scene record: EMPTY, or DEFINED with a default fade and its entries (R100). -/
inductive Scene where
  | empty
  | defined (fade : Nat) (entries : List (Chan × Level))
  deriving DecidableEq, Repr

structure SceneStore where
  scenes : Vector Scene 32
  /-- Free scene entries (R101). -/
  free : Nat
  deriving DecidableEq, Repr

/-! ### SRX: the Stream Receiver -/

inductive StreamState where
  | off | waiting | live | lost
  deriving DecidableEq, Repr

inductive SlotWidth where
  | narrow | wide
  deriving DecidableEq, Repr

/-- The stream source record (R127). -/
structure StreamRecord where
  state : StreamState
  priority : Fin 8
  id : Byte
  slotBase : Nat
  first : Nat
  /-- The stream window count, which is the reservation of the Claim Store. -/
  count : Nat
  width : SlotWidth
  divisor : Nat
  lostTimeout : Nat
  lossPolicy : LossPolicy
  lossFade : Nat
  deriving DecidableEq, Repr

/-- A word in the staging buffer: its data value and its noise mark (R120). -/
structure StagedWord where
  data : Byte
  noise : Bool
  deriving DecidableEq, Repr

/-- The receiver: MUTED, or COLLECTING a packet (R120). -/
inductive ReceiverState where
  | muted | collecting
  deriving DecidableEq, Repr

/-- The seven counters (R124). -/
structure StreamCounters where
  accepted : Nat
  framing : Nat
  noise : Nat
  overlong : Nat
  short : Nat
  check : Nat
  reconfigured : Nat
  deriving DecidableEq, Repr

structure StreamReceiver where
  record : StreamRecord
  receiver : ReceiverState
  staging : List StagedWord
  counters : StreamCounters
  /-- Loss timer remaining in ms, 0 when the timer is stopped (R129). -/
  lossRemaining : Nat
  /-- The stop bit of a good word has been sampled and its idle event has not been handed on yet (R119). -/
  idleArmed : Bool
  /-- The receiver seeks the next word only once the line has been sampled at 1: after a word with a framing error, a
  reconfiguration or a reset (R119, R135, R138). -/
  awaitsHigh : Bool
  deriving DecidableEq, Repr

/-! ### OGN: the Output Generator -/

inductive GeneratorState where
  | running | held
  deriving DecidableEq, Repr

/-- The hold of one port (R139). -/
structure Hold where
  flag : Bool
  /-- none: stopped; some k: running with k ms remaining. -/
  timer : Option Nat
  tag : Byte
  startedLimit : Nat
  deriving DecidableEq, Repr

structure OutputGenerator where
  active : Vector Level 64
  /-- Dither accumulators, 0 to 15. -/
  accumulator : Vector Nat 64
  appliedEnable : Vector Bool 64
  appliedPolarity : Vector Polarity 64
  /-- Pulse lengths of the present frame in units, 0 for a disabled channel (R143, R144). -/
  pulse : Vector Nat 64
  generator : GeneratorState
  prescaleHeld : Nat
  prescaleApplied : Nat
  /-- Frame position, 0 to 4095. -/
  position : Nat
  /-- Core clocks of the present unit that have passed (R140). -/
  unitClocks : Nat
  holds : PerPort Hold
  holdLimit : Nat
  deriving DecidableEq, Repr

/-! ### CPI: the Control Port Interfaces -/

/-- The last-submit outcome (R159). -/
inductive SubmitOutcome where
  | none | accepted | refusedFull | discarded
  deriving DecidableEq, Repr

/-- An entry of a request queue, as the SUBMIT delivered it (R163). -/
structure Request where
  kind : Byte
  tag : Byte
  length : Nat
  body : List Byte
  deriving DecidableEq, Repr

/-- The statuses of a response (R169). -/
inductive Status where
  | ok | unknownKind | malformed | range | denied | notAttached | lapsed | noClaimSpace | noSceneSpace | noScene | lastConfig
  deriving DecidableEq, Repr

/-- An entry of a response queue; its body length is the length of its body (R164). -/
structure Response where
  kind : Byte
  tag : Byte
  status : Status
  body : List Byte
  deriving DecidableEq, Repr

/-- The nine notice kinds (R165, R188). -/
inductive NoticeKind where
  | fadeDone | leadLost | leadTaken | sourceState | streamUp | streamLost | holdExpired | sceneChanged | restarted
  deriving DecidableEq, Repr

/-- A notice (R165). -/
structure Notice where
  kind : NoticeKind
  subject : Byte
  item : Byte
  tag : Byte
  value : BitVec 16
  extra : BitVec 16
  deriving DecidableEq, Repr

/-- The transaction state of a link (R154 to R161). After the deassertion the fields other than `selected` keep what the
transaction left, and the next assertion sets them all. -/
structure Link where
  /-- Select is asserted. -/
  selected : Bool
  /-- A reset was taken during the transaction, or lasted at its start (R172). -/
  voided : Bool
  /-- The status byte formed at the assertion (R156). -/
  status : Byte
  /-- The transaction, from the completion of byte 0 (R155). -/
  transaction : Option Transaction
  /-- Bits sampled on SDI since the last complete byte, oldest first. -/
  inBits : List Bool
  /-- Bits presented on SDO since the last complete byte, oldest first. -/
  outBits : List Bool
  /-- The staging place of a SUBMIT: the bytes after the code that are kept (R157). -/
  staging : List Byte
  /-- The bytes of the response or notice chosen at the completion of byte 0, none if the queue was empty (R160, R161). -/
  head : Option (List Byte)
  /-- The bytes shifted out complete in this transaction, byte 0 first. -/
  shifted : List Byte
  deriving DecidableEq, Repr

structure PortInterface where
  link : Link
  outcome : SubmitOutcome
  requests : List Request
  responses : List Response
  notices : List Notice
  /-- Lost-notice count, 0 to 255 (R165). -/
  lost : Nat
  deriving DecidableEq, Repr

/-! ### REX: the Request Executor -/

/-- The last served port, and the port whose head request is in execution (R167). -/
structure Executor where
  lastServed : Port
  current : Option Port
  deriving DecidableEq, Repr

/-! ### Reset and the time base -/

/-- A reset that lasts (R183). A RESTART begins and ends in one event and is not among them (R182). -/
inductive LastingReset where
  | por | rst
  deriving DecidableEq, Repr

/-- Whether a reset lasts, and the RESET pin (R183). -/
structure ResetState where
  lasting : Option LastingReset
  pinLow : Bool
  deriving DecidableEq, Repr

/-! ### The whole part -/

structure State where
  ports : PerPort PortInterface
  executor : Executor
  sessions : PerPort SourceRecord
  store : ClaimStore
  resolver : LevelResolver
  fades : FadeEngine
  scenes : SceneStore
  stream : StreamReceiver
  output : OutputGenerator
  resetState : ResetState
  /-- Core clocks since the last tick of the 1 ms time base. -/
  tickClocks : Nat
  /-- The model's own: how many free values have been used (notes/assumptions/7.md). -/
  freeCount : Nat
  /-- The commands that wait, first in first out. -/
  pending : List Instr
  deriving DecidableEq, Repr

/-- Why a step stops with a fault: never. Every command the manual gives has an effect on every state, or is not taken, so the
type has no constructor (safe: nothing is cut short). -/
inductive Fault where
  deriving DecidableEq, Repr

/-- Why a step has no meaning. -/
inductive Refusal where
  /-- Raised by exec's arm of a command that has no meaning yet; no arm raises it. Safe: no claim about a next state follows. -/
  | notModelled (mnemonic : String)
  deriving DecidableEq, Repr

/-! ### After reset

The values the chapters give for "after POR, RST and RESTART"; a link is idle at power-on. -/

/-- R24. -/
def ClaimStore.reset : ClaimStore :=
  { lists := Vector.replicate 64 [], free := Config.poolEntries, reservedUnused := 0, counts := ⟨0, 0, 0, 0⟩ }

/-- R25. -/
def ChannelConfig.reset : ChannelConfig :=
  { enabled := true, polarity := .activeHigh, mode := .latest, ceiling := 65535, park := 0 }

/-- R25, R27. -/
def LevelResolver.reset : LevelResolver :=
  { config := Vector.replicate 64 ChannelConfig.reset, resolved := Vector.replicate 64 ⟨0, Option.none⟩ }

/-- R45. -/
def FadeEngine.reset : FadeEngine := { period := 1, timer := Option.none }

/-- R63, for a port with the given rights. -/
def SourceRecord.reset (rights : Rights) : SourceRecord :=
  { state := .detached, priority := 3, rights := rights, keepalivePeriod := 0, keepaliveRemaining := 0,
    lossPolicy := .hold, lossFade := 0, subscriptions := ⟨false, false, false⟩ }

/-- R63: CP0 holds CONFIG, CLAIM and OBSERVE, the others CLAIM and OBSERVE. -/
def sessionsReset : PerPort SourceRecord :=
  { cp0 := SourceRecord.reset ⟨true, true, true⟩
    cp1 := SourceRecord.reset ⟨false, true, true⟩
    cp2 := SourceRecord.reset ⟨false, true, true⟩ }

/-- R102: after POR. -/
def SceneStore.afterPor : SceneStore :=
  { scenes := Vector.replicate 32 .empty, free := Config.sceneEntries }

/-- R127. -/
def StreamRecord.reset : StreamRecord :=
  { state := .off, priority := 2, id := 0, slotBase := 0, first := 0, count := 0, width := .narrow, divisor := 7,
    lostTimeout := 1000, lossPolicy := .hold, lossFade := 0 }

/-- R124, R136. -/
def StreamCounters.zero : StreamCounters := ⟨0, 0, 0, 0, 0, 0, 0⟩

/-- R137, with the line to be sampled at 1 before a word is sought (R138). That a reset drops the idle event owed for a stop bit
before it is DESIGN CHOICE: R137 and R138 do not say (notes/assumptions/18.md). -/
def StreamReceiver.reset : StreamReceiver :=
  { record := StreamRecord.reset, receiver := .muted, staging := [], counters := StreamCounters.zero,
    lossRemaining := 0, idleArmed := false, awaitsHigh := true }

/-- R139. -/
def Hold.reset : Hold := { flag := false, timer := Option.none, tag := 0, startedLimit := 0 }

/-- R139, with the pulses of 0 units that the frame start of the reset's end shapes (R153). -/
def OutputGenerator.reset : OutputGenerator :=
  { active := Vector.replicate 64 0, accumulator := Vector.replicate 64 0, appliedEnable := Vector.replicate 64 true,
    appliedPolarity := Vector.replicate 64 .activeHigh, pulse := Vector.replicate 64 0, generator := .running,
    prescaleHeld := 1, prescaleApplied := 1, position := 0, unitClocks := 0,
    holds := ⟨Hold.reset, Hold.reset, Hold.reset⟩, holdLimit := 1000 }

/-- A link on which no transaction runs (DESIGN CHOICE: select is high at power-on; notes/assumptions/9.md). -/
def Link.idle : Link :=
  { selected := false, voided := false, status := 0, transaction := Option.none, inBits := [], outBits := [], staging := [],
    head := Option.none, shifted := [] }

/-- The RESTARTED notice (R173, R190). -/
def restartedNotice (value : BitVec 16) (subject tag : Byte) : Notice :=
  { kind := .restarted, subject := subject, item := 0xFF, tag := tag, value := value, extra := 0 }

/-- R171, with the notice the reset leaves. -/
def PortInterface.reset (l : Link) (notices : List Notice) : PortInterface :=
  { link := l, outcome := .none, requests := [], responses := [], notices := notices, lost := 0 }

/-- R167. -/
def Executor.reset : Executor := { lastServed := .cp2, current := Option.none }

/-- A port at the end of a power-on reset (R171, R173). -/
def portAfterPor : PortInterface := PortInterface.reset Link.idle [restartedNotice 0 0xFF 0]

/-- The part at the end of a power-on reset: the kind of reset that gives every piece of state a value
(notes/assumptions/9.md). No reset lasts, the RESTARTED notice of cause POR stands in each notice queue, and the frame that
starts then is at position 0 (R183). -/
def State.reset : State :=
  { ports := ⟨portAfterPor, portAfterPor, portAfterPor⟩
    executor := Executor.reset
    sessions := sessionsReset
    store := ClaimStore.reset
    resolver := LevelResolver.reset
    fades := FadeEngine.reset
    scenes := SceneStore.afterPor
    stream := StreamReceiver.reset
    output := OutputGenerator.reset
    resetState := { lasting := Option.none, pinLow := false }
    tickClocks := 0
    freeCount := 0
    pending := [] }

end Sys2Proof.Machine
end

