-- ==== Sys2Proof/Machine/Operands.lean ====
section
/-! DEFINITION. Operand forms: the fields of request bodies, the codes of kinds, statuses and notices, byte order, the body lengths,
rights and session states each kind needs, and the accessors of per-port and per-source tables. -/

namespace Sys2Proof.Machine
open Sys2Proof

/-! ### Tables by port and by source -/

/-- The source that shares a port's name (00_scope.md, "Ports and sources"). -/
def sourceOf : Port → Source
  | .cp0 => .cp0
  | .cp1 => .cp1
  | .cp2 => .cp2

/-- The port that shares a source's name; STR has none. -/
def Source.port? : Source → Option Port
  | .cp0 => some .cp0
  | .cp1 => some .cp1
  | .cp2 => some .cp2
  | .str => none

/-- Source numbers (R185). -/
def Source.code : Source → Byte
  | .cp0 => 0
  | .cp1 => 1
  | .cp2 => 2
  | .str => 3

/-- Port numbers (00_scope.md, "Sources and priorities"). -/
def portCode (p : Port) : Byte := (sourceOf p).code

/-- A source or none: 0xFF when absent (R27, R185). -/
def leaderCode : Option Source → Byte
  | some src => src.code
  | none => 0xFF

/-- A source number, 0 to 3 (R79, R180). -/
def sourceOfCode (b : Byte) : Option Source :=
  if b = 0 then some .cp0 else if b = 1 then some .cp1 else if b = 2 then some .cp2 else if b = 3 then some .str else none

/-- A port number, 0 to 2 (R78). -/
def portOfCode (b : Byte) : Option Port := (sourceOfCode b).bind Source.port?

/-- The three ports in the order of their numbers. -/
def allPorts : List Port := [.cp0, .cp1, .cp2]

def PerPort.get {α : Type} (t : PerPort α) : Port → α
  | .cp0 => t.cp0
  | .cp1 => t.cp1
  | .cp2 => t.cp2

def PerPort.set {α : Type} (t : PerPort α) (p : Port) (x : α) : PerPort α :=
  match p with
  | .cp0 => { t with cp0 := x }
  | .cp1 => { t with cp1 := x }
  | .cp2 => { t with cp2 := x }

/-- Every port's value changed alike. -/
def PerPort.map {α β : Type} (f : α → β) (t : PerPort α) : PerPort β := ⟨f t.cp0, f t.cp1, f t.cp2⟩

def PerSource.get {α : Type} (t : PerSource α) : Source → α
  | .cp0 => t.cp0
  | .cp1 => t.cp1
  | .cp2 => t.cp2
  | .str => t.str

/-- A table from its values. -/
def PerSource.ofFn {α : Type} (f : Source → α) : PerSource α := ⟨f .cp0, f .cp1, f .cp2, f .str⟩

/-- The 64 channels in ascending order. -/
def allChannels : List Chan := List.finRange 64

/-- How many channels satisfy a test. -/
def countChannels (f : Chan → Bool) : Nat := (allChannels.filter f).length

/-! ### Byte order and body fields -/

/-- A two-byte field, high byte first (R185). -/
def word16 (hi lo : Byte) : BitVec 16 := hi ++ lo

/-- The bytes of a two-byte field, high byte first (R185). -/
def bytes16 (w : BitVec 16) : List Byte := [w.extractLsb' 8 8, w.extractLsb' 0 8]

/-- A number as a one-byte field. -/
def byteOf (n : Nat) : Byte := BitVec.ofNat 8 n

/-- A number as a two-byte field. -/
def bytesOf (n : Nat) : List Byte := bytes16 (BitVec.ofNat 16 n)

/-- Byte `i` of a request's body, counted from 0. -/
def Request.byte (r : Request) (i : Nat) : Byte := r.body.getD i 0

/-- The number in byte `i` of a request's body. -/
def Request.num (r : Request) (i : Nat) : Nat := (r.byte i).toNat

/-- The two-byte field at byte `i` of a request's body. -/
def Request.word (r : Request) (i : Nat) : BitVec 16 := word16 (r.byte i) (r.byte (i + 1))

/-- The number in the two-byte field at byte `i` of a request's body. -/
def Request.num16 (r : Request) (i : Nat) : Nat := (r.word i).toNat

/-- A run of channels: first 0 to 63, count 1 to 64, first + count at most 64 (00_scope.md, "Channels"; R86, R91, R108, R179). -/
def runInRange (first count : Nat) : Bool :=
  decide (first ≤ 63) && decide (1 ≤ count) && decide (count ≤ 64) && decide (first + count ≤ 64)

/-- The channel lies in the run. -/
def inRun (first count : Nat) (h : Chan) : Bool := decide (first ≤ h.val) && decide (h.val < first + count)

/-- A scene number, 0 to 31 (R100). -/
def sceneOfNum (n : Nat) : Option (Fin 32) := if h : n < 32 then some ⟨n, h⟩ else none

/-- A channel number, 0 to 63. -/
def chanOfNum (n : Nat) : Option Chan := if h : n < 64 then some ⟨n, h⟩ else none

/-- A priority, 0 to 7 (R79). -/
def priorityOfNum (n : Nat) : Option (Fin 8) := if h : n < 8 then some ⟨n, h⟩ else none

/-! ### Codes (R185) -/

def SessionState.code : SessionState → Byte
  | .detached => 0
  | .attached => 1
  | .detaching => 2
  | .lapsed => 3

def StreamState.code : StreamState → Byte
  | .off => 0
  | .waiting => 1
  | .live => 2
  | .lost => 3

def ClaimState.code : ClaimState → Byte
  | .steady => 0
  | .fading _ => 1
  | .releasing _ => 2

def LossPolicy.code : LossPolicy → Byte
  | .hold => 0
  | .release => 1

def lossPolicyOfCode (b : Byte) : Option LossPolicy :=
  if b = 0 then some .hold else if b = 1 then some .release else none

def SlotWidth.code : SlotWidth → Byte
  | .narrow => 0
  | .wide => 1

def widthOfCode (b : Byte) : Option SlotWidth :=
  if b = 0 then some .narrow else if b = 1 then some .wide else none

def Polarity.code : Polarity → Byte
  | .activeHigh => 0
  | .activeLow => 1

def polarityOfCode (b : Byte) : Polarity := if b = 0 then .activeHigh else .activeLow

def MergeMode.code : MergeMode → Byte
  | .latest => 0
  | .peak => 1

def mergeModeOfCode (b : Byte) : MergeMode := if b = 0 then .latest else .peak

def GeneratorState.code : GeneratorState → Byte
  | .running => 0
  | .held => 1

def ReceiverState.code : ReceiverState → Byte
  | .muted => 0
  | .collecting => 1

/-- yes is 1, no is 0; a set hold flag is 1 (R185, R189). -/
def boolCode (b : Bool) : Byte := if b then 1 else 0

def Status.code : Status → Byte
  | .ok => 0x00
  | .unknownKind => 0x01
  | .malformed => 0x02
  | .range => 0x03
  | .denied => 0x04
  | .notAttached => 0x05
  | .lapsed => 0x06
  | .noClaimSpace => 0x07
  | .noSceneSpace => 0x08
  | .noScene => 0x09
  | .lastConfig => 0x0A

def NoticeKind.code : NoticeKind → Byte
  | .fadeDone => 0x01
  | .leadLost => 0x02
  | .leadTaken => 0x03
  | .sourceState => 0x04
  | .streamUp => 0x05
  | .streamLost => 0x06
  | .holdExpired => 0x07
  | .sceneChanged => 0x08
  | .restarted => 0x09

/-! ### Request kinds -/

/-- The request kinds (R188). -/
inductive Kind where
  | attach | detach | ping | setLevels | release | releaseAll | recall | hold | unhold
  | defineScene | eraseScene | captureScene | readScene | readStatus | readChannel | readLevels | readSource | readStream
  | configChannels | configSource | configStream | configOutput | grant | restart
  deriving DecidableEq, Repr

/-- R188. -/
def Kind.code : Kind → Byte
  | .attach => 0x01
  | .detach => 0x02
  | .ping => 0x03
  | .setLevels => 0x10
  | .release => 0x11
  | .releaseAll => 0x12
  | .recall => 0x13
  | .hold => 0x14
  | .unhold => 0x15
  | .defineScene => 0x20
  | .eraseScene => 0x21
  | .captureScene => 0x22
  | .readScene => 0x23
  | .readStatus => 0x30
  | .readChannel => 0x31
  | .readLevels => 0x32
  | .readSource => 0x33
  | .readStream => 0x34
  | .configChannels => 0x40
  | .configSource => 0x41
  | .configStream => 0x42
  | .configOutput => 0x43
  | .grant => 0x44
  | .restart => 0x4F

/-- Every request kind, in the order of R188. -/
def allKinds : List Kind :=
  [.attach, .detach, .ping, .setLevels, .release, .releaseAll, .recall, .hold, .unhold, .defineScene, .eraseScene,
   .captureScene, .readScene, .readStatus, .readChannel, .readLevels, .readSource, .readStream, .configChannels,
   .configSource, .configStream, .configOutput, .grant, .restart]

/-- The kind a kind byte names, if any (R188). -/
def kindOfCode (b : Byte) : Option Kind := allKinds.find? fun k => k.code == b

/-- The row of the table that is the execution of a request of a kind. -/
def commandOfKind : Kind → Instr
  | .attach => .attach
  | .detach => .detach
  | .ping => .ping
  | .setLevels => .setLevels
  | .release => .release
  | .releaseAll => .releaseAll
  | .recall => .recall
  | .hold => .hold
  | .unhold => .unhold
  | .defineScene => .defineScene
  | .eraseScene => .eraseScene
  | .captureScene => .captureScene
  | .readScene => .readScene
  | .readStatus => .readStatus
  | .readChannel => .readChannel
  | .readLevels => .readLevels
  | .readSource => .readSource
  | .readStream => .readStream
  | .configChannels => .configChannels
  | .configSource => .configSource
  | .configStream => .configStream
  | .configOutput => .configOutput
  | .grant => .grant
  | .restart => .restart

/-- The row of the table that is the execution of a request. -/
def commandOfRequest (r : Request) : Instr :=
  match kindOfCode r.kind with
  | some k => commandOfKind k
  | none => .unknownKind

/-- Check 2: the declared length is the one the kind requires (R170, R189; R85 and R104 for the two list kinds). -/
def lengthFits (k : Kind) (r : Request) : Bool :=
  match k with
  | .setLevels =>
    decide (5 ≤ r.length) && decide (r.length = if (r.byte 4).getLsbD 2 then 7 else 5 + 2 * r.num 1)
  | .defineScene => decide (4 ≤ r.length) && decide (r.length = 4 + 3 * r.num 3)
  | .ping | .hold | .unhold | .readStatus | .restart => decide (r.length = 0)
  | .eraseScene | .readScene | .readChannel | .readSource | .readStream => decide (r.length = 1)
  | .detach | .configSource | .grant => decide (r.length = 2)
  | .releaseAll | .readLevels => decide (r.length = 3)
  | .recall | .configOutput => decide (r.length = 4)
  | .release | .captureScene => decide (r.length = 5)
  | .attach => decide (r.length = 6)
  | .configChannels => decide (r.length = 10)
  | .configStream => decide (r.length = 12)

/-- Check 3: the rights set holds the right the kind needs (R77, R170). -/
def rightHeld (k : Kind) (rt : Rights) : Bool :=
  match k with
  | .attach | .detach | .ping | .readStatus => true
  | .setLevels | .release | .releaseAll | .recall | .hold | .unhold => rt.claim
  | .readScene | .readChannel | .readLevels | .readSource | .readStream => rt.observe
  | .defineScene | .eraseScene | .captureScene | .configChannels | .configSource | .configStream | .configOutput
  | .grant | .restart => rt.config

/-- Check 4: the status with which the session state refuses the kind, if it does (R73). -/
def sessionRefusal (k : Kind) (st : SessionState) : Option Status :=
  match k with
  | .setLevels | .release | .releaseAll | .recall | .hold | .unhold =>
    match st with
    | .attached => none
    | .detached => some .notAttached
    | .detaching => some .notAttached
    | .lapsed => some .lapsed
  | .detach => if st = .detached then some .notAttached else none
  | .attach | .ping | .defineScene | .eraseScene | .captureScene | .readScene | .readStatus | .readChannel | .readLevels
  | .readSource | .readStream | .configChannels | .configSource | .configStream | .configOutput | .grant | .restart => none

/-! ### The bytes of queue entries -/

/-- The bytes a COLLECT shifts out for a response: 5 + L bytes (R160, R188). -/
def responseBytes (x : Response) : List Byte :=
  [x.kind, x.tag, x.status.code] ++ bytesOf x.body.length ++ x.body

/-- The 8 bytes a COLLECT_NOTICE shifts out for a notice (R161, R188). -/
def noticeBytes (n : Notice) : List Byte :=
  [n.kind.code, n.subject, n.item, n.tag] ++ bytes16 n.value ++ bytes16 n.extra

end Sys2Proof.Machine
end

