-- ==== Sys2Proof/Machine/Flags.lean ====
section
/-! DEFINITION. Flags and sets: the status byte of a port, the one-byte sets of requests and responses, counters that saturate. -/

namespace Sys2Proof.Machine
open Sys2Proof

/-- The code of the last-submit outcome in the status byte (R187). -/
def SubmitOutcome.code : SubmitOutcome → BitVec 2
  | .none => 0
  | .accepted => 1
  | .refusedFull => 2
  | .discarded => 3

/-- Free request slots: 8 less the requests in the queue, the one in execution among them (R156). -/
def freeSlots (p : PortInterface) : Nat := Config.queuePlaces - p.requests.length

/-- The status byte: bit 7 notice waiting, bit 6 response waiting, bits 5 and 4 the outcome, bits 3 to 0 the free request
slots (R156, R187). -/
def statusByte (p : PortInterface) : Byte :=
  BitVec.ofBool (!p.notices.isEmpty) ++ BitVec.ofBool (!p.responses.isEmpty) ++ p.outcome.code ++
    BitVec.ofNat 4 (freeSlots p)

/-- A one-byte set: its members in bits 0, 1 and 2 (R185). -/
def setByte (b0 b1 b2 : Bool) : Byte := 0#5 ++ BitVec.ofBool b2 ++ BitVec.ofBool b1 ++ BitVec.ofBool b0

/-- Rights set: bit 0 CONFIG, bit 1 CLAIM, bit 2 OBSERVE (R185). -/
def rightsByte (r : Rights) : Byte := setByte r.config r.claim r.observe

def rightsOfByte (b : Byte) : Rights := ⟨b.getLsbD 0, b.getLsbD 1, b.getLsbD 2⟩

/-- Subscriptions set: bit 0 STREAM, bit 1 SOURCES, bit 2 SCENES (R185). -/
def subscriptionsByte (x : Subscriptions) : Byte := setByte x.stream x.sources x.scenes

def subscriptionsOfByte (b : Byte) : Subscriptions := ⟨b.getLsbD 0, b.getLsbD 1, b.getLsbD 2⟩

/-- Hold flags set: bit 0 CP0, bit 1 CP1, bit 2 CP2 (R185). -/
def holdFlagsByte (t : PerPort Hold) : Byte := setByte t.cp0.flag t.cp1.flag t.cp2.flag

/-- The number of hold flags set (R146). -/
def holdFlagCount (t : PerPort Hold) : Nat := t.cp0.flag.toNat + t.cp1.flag.toNat + t.cp2.flag.toNat

/-- Some hold flag is set (R141). -/
def anyHold (t : PerPort Hold) : Bool := t.cp0.flag || t.cp1.flag || t.cp2.flag

/-- The set names no member above bit `n - 1` (R185). -/
def setWithin (b : Byte) (n : Nat) : Bool := decide (b.toNat < 2 ^ n)

/-- A stream counter rises by 1, saturating (R124). -/
def bump (n : Nat) : Nat := min Config.counterMax (n + 1)

/-- A lost-notice count rises by 1, saturating at 255 (R165). -/
def bumpLost (n : Nat) : Nat := min Config.lostMax (n + 1)

end Sys2Proof.Machine
end

