-- ==== Sys2Proof/Machine/Ops.lean ====
section
/-! DEFINITION. The shared operations: notices and responses, the executor's choice, claim lists, resolution, the one way in which a
Claim Store change is taken, and the one way in which a reset is taken. -/

namespace Sys2Proof.Machine
open Sys2Proof

/-! ### Access -/

/-- Change one port's interface. -/
def updPort (p : Port) (f : PortInterface → PortInterface) (s : State) : State :=
  { s with ports := s.ports.set p (f (s.ports.get p)) }

/-- Change one port's source record. -/
def updSession (p : Port) (f : SourceRecord → SourceRecord) (s : State) : State :=
  { s with sessions := s.sessions.set p (f (s.sessions.get p)) }

/-- Change one port's hold. -/
def updHold (p : Port) (f : Hold → Hold) (s : State) : State :=
  { s with output := { s.output with holds := s.output.holds.set p (f (s.output.holds.get p)) } }

/-- A reset lasts (R183). -/
def resetLasts (s : State) : Bool := s.resetState.lasting.isSome

/-- The current priority of each source (R4, R63, R127). -/
def priorityOf (s : State) : Source → Fin 8
  | .cp0 => s.sessions.cp0.priority
  | .cp1 => s.sessions.cp1.priority
  | .cp2 => s.sessions.cp2.priority
  | .str => s.stream.record.priority

/-- The claim count of a source (R8). -/
def claimCount (s : State) (src : Source) : Nat := s.store.counts.get src

/-- The claims of CP0, CP1 and CP2 together (R6). -/
def cpClaims (c : PerSource Nat) : Nat := c.cp0 + c.cp1 + c.cp2

/-! ### Notices (R165) -/

/-- A notice with the port it is raised for. -/
abbrev Addressed := Port × Notice

/-- Place a notice at the tail of a port's queue, or discard and count it if the queue is full (R165). -/
def placeNotice (n : Notice) (pi : PortInterface) : PortInterface :=
  if pi.notices.length < Config.noticePlaces then { pi with notices := pi.notices ++ [n] }
  else { pi with lost := bumpLost pi.lost }

/-- Place notices in the order given. -/
def raisePorts (ns : List Addressed) (t : PerPort PortInterface) : PerPort PortInterface :=
  ns.foldl (fun t a => t.set a.1 (placeNotice a.2 (t.get a.1))) t

/-- Place notices in the order given. -/
def raise (ns : List Addressed) (s : State) : State := { s with ports := raisePorts ns s.ports }

/-- The notice classes a port subscribes to (R76). -/
inductive NoticeClass where
  | stream | sources | scenes
  deriving DecidableEq, Repr

def subscribes (c : NoticeClass) (x : Subscriptions) : Bool :=
  match c with
  | .stream => x.stream
  | .sources => x.sources
  | .scenes => x.scenes

/-- A subscribed notice is placed in a port's queue: the class is in its subscriptions and the port holds OBSERVE. The session
state is not tested (R76). -/
def receives (c : NoticeClass) (s : State) (p : Port) : Bool :=
  subscribes c (s.sessions.get p).subscriptions && (s.sessions.get p).rights.observe

/-- One notice for every port that receives its class. -/
def toSubscribers (c : NoticeClass) (n : Notice) (s : State) : List Addressed :=
  (allPorts.filter (receives c s)).map fun p => (p, n)

/-- SOURCE_STATE (R75, R190), with the state and the claim count of the source as they stand. -/
def sourceStateNotice (p : Port) (tag : Byte) (s : State) : Notice :=
  { kind := .sourceState, subject := portCode p, item := 0xFF, tag := tag,
    value := (s.sessions.get p).state.code.setWidth 16, extra := BitVec.ofNat 16 (claimCount s (sourceOf p)) }

/-! ### Responses and the executor (R167, R168) -/

/-- A port is eligible while its request queue is not empty and its response queue holds fewer than 8 (R167). -/
def eligible (s : State) (p : Port) : Bool :=
  !(s.ports.get p).requests.isEmpty && decide ((s.ports.get p).responses.length < Config.queuePlaces)

/-- The cyclic search from the port after the last served (R167). -/
def searchOrder : Port → List Port
  | .cp0 => [.cp1, .cp2, .cp0]
  | .cp1 => [.cp2, .cp0, .cp1]
  | .cp2 => [.cp0, .cp1, .cp2]

/-- The executor's choice: with no current request, the first eligible port of the search becomes current and last served.
It is made at the end of every event that can make a port eligible or end an execution (R167). While a reset lasts no choice
is made (R183). -/
def chooseNext (s : State) : State :=
  if resetLasts s then s
  else
    match s.executor.current with
    | some _ => s
    | none =>
      match (searchOrder s.executor.lastServed).find? (eligible s) with
      | none => s
      | some p => { s with executor := { lastServed := p, current := some p } }

/-- The request in execution and its port. None while a reset lasts (R183). -/
def inExecution (s : State) : Option (Port × Request) :=
  if resetLasts s then none
  else
    match s.executor.current with
    | none => none
    | some p =>
      match (s.ports.get p).requests with
      | [] => none
      | r :: _ => some (p, r)

/-- What the execution of a request comes to: the status and body of its response, and the state its change leaves. -/
structure Reply where
  status : Status
  body : List Byte
  state : State

/-- The end of an execution: the response goes to the tail of the port's response queue, the request leaves the head of its
request queue, the current request becomes none (R168), and the executor makes its next choice (R167). -/
def complete (p : Port) (r : Request) (y : Reply) : State :=
  let s := updPort p (fun pi =>
    { pi with
      requests := pi.requests.tail
      responses := pi.responses ++ [{ kind := r.kind, tag := r.tag, status := y.status, body := y.body }] }) y.state
  chooseNext { s with executor := { s.executor with current := none } }

/-- A refusal: the response body is empty and nothing else changes (R169). -/
def refuse (st : Status) (s : State) : Reply := { status := st, body := [], state := s }

/-- A request that passed every check (R169). -/
def answer (body : List Byte) (s : State) : Reply := { status := .ok, body := body, state := s }

/-- Checks 2, 3 and 4, in this order: the first that fails gives the status (R169). -/
def earlyRefusal (k : Kind) (p : Port) (r : Request) (s : State) : Option Status :=
  if !lengthFits k r then some .malformed
  else if !rightHeld k (s.sessions.get p).rights then some .denied
  else sessionRefusal k (s.sessions.get p).state

/-- The execution of a request of kind `k`: checks 2 to 4, then `run`, which makes the later checks and the change. -/
def checked (k : Kind) (run : Port → Request → State → Reply) (p : Port) (r : Request) (s : State) : Reply :=
  match earlyRefusal k p r s with
  | some st => refuse st s
  | none => run p r s

/-- A request row: the execution of the current request, from its checks to its response, taken whole (R168). If no request
is in execution, or the one in execution is of another kind, the event is not one the executor takes, and nothing happens
(notes/assumptions/2.md). -/
def execute (k : Kind) (run : Port → Request → State → Reply) (s : State) : State :=
  match inExecution s with
  | none => s
  | some (p, r) => if r.kind = k.code then complete p r (checked k run p r s) else s

/-! ### Claim lists (R3, R4) -/

/-- The claim of a source in a list. -/
def findClaim (src : Source) (l : List Claim) : Option Claim := l.find? fun c => c.source == src

/-- The list holds a claim of the source. -/
def holds (src : Source) (l : List Claim) : Bool := l.any fun c => c.source == src

/-- Take a source's claim out; the claims that followed it close up (R5, R18). -/
def removeClaim (src : Source) (l : List Claim) : List Claim := l.filter fun c => c.source != src

/-- Put a claim at the front of its tier: after every claim of a higher priority, before every other (R4, R21). -/
def placeClaim (prio : Source → Fin 8) (c : Claim) : List Claim → List Claim
  | [] => [c]
  | d :: l => if prio c.source < prio d.source then d :: placeClaim prio c l else c :: d :: l

/-- Change a source's claim where it stands, without placing it. -/
def mapClaim (src : Source) (f : Claim → Claim) (l : List Claim) : List Claim :=
  l.map fun c => if c.source = src then f c else c

/-- The claim is FADING or RELEASING. -/
def moving (c : Claim) : Bool :=
  match c.state with
  | .steady => false
  | .fading _ => true
  | .releasing _ => true

/-- Some claim of the part is FADING or RELEASING (R46, R47). -/
def anyMoving (lists : Vector (List Claim) 64) : Bool := allChannels.any fun h => (lists.get h).any moving

/-- The number of channels whose list holds a claim of the source (R8). -/
def countClaims (lists : Vector (List Claim) 64) (src : Source) : Nat := countChannels fun h => holds src (lists.get h)

/-! ### Resolution (R28 to R31) -/

/-- A level clamped to a ceiling (R28, R31). -/
def clamp (ceiling x : Level) : Level := if x ≤ ceiling then x else ceiling

/-- The claim of greatest level, the earliest on a tie; `best` stands before the list (R30). -/
def greatest (best : Claim) : List Claim → Claim
  | [] => best
  | d :: l => if best.level < d.level then greatest d l else greatest best l

/-- The claims at the front of the list whose sources share the first one's priority (R29). -/
def topTier (prio : Source → Fin 8) : List Claim → List Claim
  | [] => []
  | c :: l => c :: l.takeWhile fun d => prio d.source == prio c.source

/-- The leader: none of an empty list; the first claim in LATEST mode (R29); the greatest of the top tier in PEAK mode (R30). -/
def leaderOf (mode : MergeMode) (prio : Source → Fin 8) (l : List Claim) : Option Claim :=
  match topTier prio l with
  | [] => none
  | c :: tier =>
    match mode with
    | .latest => some c
    | .peak => some (greatest c tier)

/-- The resolved record of a channel, from its list and configuration as they stand (R28 to R31). -/
def resolve (cfg : ChannelConfig) (prio : Source → Fin 8) (l : List Claim) : Resolved :=
  match leaderOf cfg.mode prio l with
  | none => { level := clamp cfg.ceiling cfg.park, leader := none }
  | some c => { level := clamp cfg.ceiling c.level, leader := some c.source }

/-- The release snapshot of a source's claim: the resolved level with the claim absent (R35). -/
def snapshot (cfg : ChannelConfig) (prio : Source → Fin 8) (src : Source) (l : List Claim) : Level :=
  (resolve cfg prio (removeClaim src l)).level

/-- The lead notices of one recomputed channel (R37 to R39). `l` is its list after the change. -/
def leadNotices (h : Chan) (before after : Resolved) (l : List Claim) : List Addressed :=
  if before.leader = after.leader then []
  else
    (match before.leader with
      | none => []
      | some a =>
        match Source.port? a, findClaim a l with
        | some p, some c =>
          if c.watch then
            [(p, { kind := .leadLost, subject := leaderCode after.leader, item := byteOf h.val, tag := 0,
                   value := after.level, extra := c.level })]
          else []
        | _, _ => []) ++
    (match after.leader with
      | none => []
      | some b =>
        match Source.port? b, findClaim b l with
        | some p, some c =>
          if c.watch then
            [(p, { kind := .leadTaken, subject := leaderCode before.leader, item := byteOf h.val, tag := 0,
                   value := after.level, extra := c.level })]
          else []
        | _, _ => [])

/-- Recompute the channels named, once each, from the lists, configuration and priorities as they stand (R32, R34). The
notices come in ascending channel order, and on each channel the ones in `done` before its lead notices (R10, R40). -/
def recompute (touched : Chan → Bool) (done : Chan → List Addressed) (s : State) : State × List Addressed :=
  let new : Vector Resolved 64 := Vector.ofFn fun h =>
    if touched h then resolve (s.resolver.config.get h) (priorityOf s) (s.store.lists.get h) else s.resolver.resolved.get h
  ({ s with resolver := { s.resolver with resolved := new } },
   allChannels.flatMap fun h =>
     done h ++ (if touched h then leadNotices h (s.resolver.resolved.get h) (new.get h) (s.store.lists.get h) else []))

/-- The number of channels whose leader differs between two states (R42, R79). -/
def leadersChanged (s t : State) : Nat :=
  countChannels fun h => decide ((s.resolver.resolved.get h).leader ≠ (t.resolver.resolved.get h).leader)

/-- The number of channels whose resolved level differs between two states (R42). -/
def levelsChanged (s t : State) : Nat :=
  countChannels fun h => decide ((s.resolver.resolved.get h).level ≠ (t.resolver.resolved.get h).level)

/-! ### A Claim Store change (R9, R10) -/

/-- What the Level Resolver reads of a list: claims, order and levels (R10). -/
def listKey (l : List Claim) : List (Source × Level) := l.map fun c => (c.source, c.level)

/-- The store with new lists: each count moves by the claims created and removed (R6, R8, R18). -/
def storeWith (lists : Vector (List Claim) 64) (st : ClaimStore) : ClaimStore :=
  let counts := PerSource.ofFn (countClaims lists)
  { lists := lists
    free := st.free + cpClaims st.counts - cpClaims counts
    reservedUnused := st.reservedUnused + st.counts.str - counts.str
    counts := counts }

/-- The step timer starts if it is STOPPED and some claim is FADING or RELEASING (R46). -/
def startStepTimer (s : State) : State :=
  if s.fades.timer = none ∧ anyMoving s.store.lists = true then
    { s with fades := { s.fades with timer := some s.fades.period } }
  else s

/-- The store part of a change: new lists and counts, the channels whose list changed recomputed, the step timer started.
The notices are returned and not yet placed (R10, R32, R46). -/
def commit (lists : Vector (List Claim) 64) (done : Chan → List Addressed) (s : State) : State × List Addressed :=
  let touched : Chan → Bool := fun h => decide (listKey (s.store.lists.get h) ≠ listKey (lists.get h))
  let r := recompute touched done { s with store := storeWith lists s.store }
  (startStepTimer r.1, r.2)

/-- Insert a notice at a place the manual leaves open (R165; notes/assumptions/6.md). -/
def insertFree (n : Nat) (x : Addressed) (ns : List Addressed) : List Addressed :=
  let i := Config.freePlace n % (ns.length + 1)
  ns.take i ++ x :: ns.drop i

/-- Insert several notices, each at an open place. -/
def insertAllFree (n : Nat) : List Addressed → List Addressed → List Addressed
  | [], ns => ns
  | x :: xs, ns => insertAllFree (n + 1) xs (insertFree n x ns)

/-- The emptied report of one source: its count was above 0 before the change and is 0 after it (R8). A DETACHING source
becomes DETACHED and raises SOURCE_STATE with tag 0; any other state is left as it is (R68). -/
def reportEmptied (before : State) (p : Port) (x : State × List Addressed) : State × List Addressed :=
  let s := x.1
  if 0 < claimCount before (sourceOf p) ∧ claimCount s (sourceOf p) = 0 ∧ (s.sessions.get p).state = .detaching then
    let t := updSession p (fun rec => { rec with state := .detached }) s
    let ns := toSubscribers .sources (sourceStateNotice p 0 t) t
    ({ t with freeCount := t.freeCount + ns.length }, insertAllFree t.freeCount ns x.2)
  else x

/-- A Claim Store change taken whole: the store part, the emptied reports, then the notices (R8, R9, R10, R68). -/
def applyChange (lists : Vector (List Claim) 64) (done : Chan → List Addressed) (s : State) : State :=
  let x := reportEmptied s .cp2 (reportEmptied s .cp1 (reportEmptied s .cp0 (commit lists done s)))
  raise x.2 x.1

/-- No fade completes in the change. -/
def noneDone : Chan → List Addressed := fun _ => []

/-! ### Writes (R11, R13, R14) -/

/-- How a request asks a claim to move: its fade in steps, its tag, its notify value (R11, R17). -/
structure FadeOrder where
  steps : Nat
  tag : Byte
  notify : Bool
  deriving DecidableEq, Repr

/-- The claim a write leaves: STEADY at the level with fade 0, else FADING from the present level, or from 0 for a claim
created by the write (R11). -/
def writtenClaim (src : Source) (v : Level) (o : FadeOrder) (watch : Bool) (old : Option Claim) : Claim :=
  let start : Level := match old with
    | some c => c.level
    | none => 0
  if o.steps = 0 then
    { source := src, state := .steady, level := v, target := v, notify := o.notify, watch := watch }
  else
    { source := src, state := .fading { start := start, duration := o.steps, elapsed := 0, tag := o.tag },
      level := start, target := v, notify := o.notify, watch := watch }

/-- A write on one channel: the claim is created or set, and placed at the front of its tier (R11). -/
def writeClaim (prio : Source → Fin 8) (src : Source) (v : Level) (o : FadeOrder) (watch : Bool) (l : List Claim) :
    List Claim :=
  placeClaim prio (writtenClaim src v o watch (findClaim src l)) (removeClaim src l)

/-! ### Releases (R17 to R19) -/

/-- The claim a release with fade leaves: RELEASING from its present level toward the snapshot; its watch is kept (R17). -/
def releasedClaim (snap : Level) (o : FadeOrder) (c : Claim) : Claim :=
  { c with
    state := .releasing { start := c.level, duration := o.steps, elapsed := 0, tag := o.tag }
    target := snap
    notify := o.notify }

/-- A release on one channel: with fade 0 the claim is removed, else it begins its release where it stands. A list without a
claim of the source is passed over (R17). -/
def releaseClaim (cfg : ChannelConfig) (prio : Source → Fin 8) (src : Source) (o : FadeOrder) (l : List Claim) :
    List Claim :=
  if o.steps = 0 then removeClaim src l else mapClaim src (releasedClaim (snapshot cfg prio src l) o) l

/-- The lists after a release on the channels named, each channel by itself (R17, R19). -/
def releasedLists (src : Source) (o : FadeOrder) (on : Chan → Bool) (s : State) : Vector (List Claim) 64 :=
  Vector.ofFn fun h =>
    if on h then releaseClaim (s.resolver.config.get h) (priorityOf s) src o (s.store.lists.get h) else s.store.lists.get h

/-- The claims of a source on the channels named (R92, R93). -/
def heldOn (src : Source) (on : Chan → Bool) (s : State) : Nat :=
  countChannels fun h => on h && holds src (s.store.lists.get h)

/-- Every channel. -/
def everywhere : Chan → Bool := fun _ => true

/-- A release of all claims of a source, as one change (R19). -/
def releaseAllOf (src : Source) (o : FadeOrder) (s : State) : State :=
  applyChange (releasedLists src o everywhere s) noneDone s

/-- A write over the channels that `level` gives a level, with a release of the source's claims on the channels `drop` names,
as one change after its space check (R13, R14). The response carries created, updated, and, for a RECALL, released, then the
free count after; refused, it carries needed and free (R88, R89, R115, R116). -/
def writeChange (p : Port) (level : Chan → Option Level) (drop : Chan → Bool) (o : FadeOrder) (watch : Bool)
    (isRecall : Bool) (s : State) : Reply :=
  let src := sourceOf p
  let named : Chan → Bool := fun h => (level h).isSome
  let needed := countChannels fun h => named h && !holds src (s.store.lists.get h)
  if s.store.free < needed then
    { status := .noClaimSpace, body := [byteOf needed, byteOf s.store.free], state := s }
  else
    let released : Chan → Bool := fun h => drop h && !named h
    let after := releasedLists src o released s
    let lists : Vector (List Claim) 64 := Vector.ofFn fun h =>
      match level h with
      | some v => writeClaim (priorityOf s) src v o watch (s.store.lists.get h)
      | none => after.get h
    let t := applyChange lists noneDone s
    answer ([byteOf needed, byteOf (heldOn src named s)] ++
      (if isRecall then [byteOf (heldOn src released s)] else []) ++ [byteOf t.store.free]) t

/-! ### Holds, sessions -/

/-- A lapse or DETACH clears the port's hold flag and stops its timer; the tag is kept (R149). -/
def clearHold (p : Port) (s : State) : State := updHold p (fun h => { h with flag := false, timer := none }) s

/-- A keepalive restart: the remaining becomes the period × 10 ms (R70). -/
def restartKeepalive (rec : SourceRecord) : SourceRecord := { rec with keepaliveRemaining := rec.keepalivePeriod * 10 }

/-- The keepalive timer runs while the state is ATTACHED and the period is not 0 (R70). -/
def keepaliveRuns (rec : SourceRecord) : Bool := decide (rec.state = .attached) && decide (rec.keepalivePeriod ≠ 0)

/-! ### Frame start (R141 to R144) -/

/-- W: whole units of the pulse (R143). -/
def wholeUnits (l : Level) : Nat := l.toNat / 16

/-- F: sixteenths left over (R143). -/
def leftOver (l : Level) : Nat := l.toNat % 16

/-- The accumulator after gaining F: 16 is taken from it if it is then 16 or more (R143). -/
def carried (acc : Nat) (l : Level) : Nat := if 16 ≤ acc + leftOver l then acc + leftOver l - 16 else acc + leftOver l

/-- The pulse length in units: W + 1 if the accumulator reached 16, else W (R143). -/
def pulseUnits (acc : Nat) (l : Level) : Nat := if 16 ≤ acc + leftOver l then wholeUnits l + 1 else wholeUnits l

/-- The frame start: the generator becomes RUNNING and takes the resolved levels, or becomes HELD (R141); it takes the
prescale, enable and polarity (R142); it shapes a pulse for each enabled channel (R143), and a disabled channel's accumulator
is set to 0 (R144). -/
def frameStart (s : State) : State :=
  let g := s.output
  let held := anyHold g.holds
  let active : Vector Level 64 := if held then g.active else Vector.ofFn fun h => (s.resolver.resolved.get h).level
  let enable : Vector Bool 64 := Vector.ofFn fun h => (s.resolver.config.get h).enabled
  { s with output :=
    { g with
      active := active
      generator := if held then .held else .running
      prescaleApplied := g.prescaleHeld
      appliedEnable := enable
      appliedPolarity := Vector.ofFn fun h => (s.resolver.config.get h).polarity
      accumulator := Vector.ofFn fun h =>
        if enable.get h then carried (g.accumulator.get h) (active.get h) else 0
      pulse := Vector.ofFn fun h =>
        if enable.get h then pulseUnits (g.accumulator.get h) (active.get h) else 0
      position := 0
      unitClocks := 0 } }

/-! ### Taking a reset and ending it (R183) -/

/-- A transaction in progress when a reset is taken is completed under the terms of R172. -/
def voidLink (l : Link) : Link := { l with voided := l.voided || l.selected }

/-- Every block at its state for after RST and RESTART; the scene store is kept (R102), the links go on (R172). The notice
queues are empty: RESTARTED is placed at the reset's end (R171). The 1 ms time base begins anew; R183 says so for POR and RST,
and that a RESTART does it too is DESIGN CHOICE (notes/assumptions/20.md). -/
def resetBlocks (s : State) : State :=
  { s with
    ports := s.ports.map fun pi => PortInterface.reset (voidLink pi.link) []
    executor := Executor.reset
    sessions := sessionsReset
    store := ClaimStore.reset
    resolver := LevelResolver.reset
    fades := FadeEngine.reset
    stream := StreamReceiver.reset
    output := OutputGenerator.reset
    tickClocks := 0 }

/-- The end of a reset: RESTARTED stands alone in each notice queue, and a frame starts (R171, R173, R183). -/
def leaveReset (value : BitVec 16) (subject tag : Byte) (s : State) : State :=
  frameStart
    { s with
      ports := s.ports.map fun pi => { pi with notices := [restartedNotice value subject tag] }
      resetState := { lasting := none, pinLow := false } }

/-! ### Pins -/

/-- ATN is driven low: either queue of the port holds an entry, and no reset lasts (R166). -/
def atnAsserted (s : State) (p : Port) : Bool :=
  !resetLasts s && (!(s.ports.get p).responses.isEmpty || !(s.ports.get p).notices.isEmpty)

/-- The present unit lies in the channel's pulse: it begins at unit (c mod 8) × 512 and wraps within the frame (R144). -/
def inPulse (g : OutputGenerator) (h : Chan) : Bool :=
  decide ((g.position + Config.frameUnits - (h.val % 8) * 512) % Config.frameUnits < g.pulse.get h)

/-- The output pin of a channel is high. While a reset lasts every pin is low (R153); else the channel drives its active
level in its pulse and its inactive level elsewhere, under the polarity applied (R144). -/
def outHigh (s : State) (h : Chan) : Bool :=
  if resetLasts s then false
  else
    let on := s.output.appliedEnable.get h && inPulse s.output h
    match s.output.appliedPolarity.get h with
    | .activeHigh => on
    | .activeLow => !on

end Sys2Proof.Machine
end

