-- ==== Sys2Proof/Machine/Channels.lean ====
section
/-! DEFINITION. Family: the Level Resolver: CONFIG_CHANNELS (R41, R42). -/

namespace Sys2Proof.Machine
open Sys2Proof Host

/-- The range check of CONFIG_CHANNELS (R41): a field the mask does not name is not checked. -/
def channelsInRange (r : Request) : Bool :=
  let mask := r.byte 2
  runInRange (r.num 0) (r.num 1) && setWithin mask 5 &&
    (!mask.getLsbD 0 || decide (r.num 3 ≤ 1)) && (!mask.getLsbD 1 || decide (r.num 4 ≤ 1)) &&
    (!mask.getLsbD 2 || decide (r.num 5 ≤ 1))

/-- The record a CONFIG_CHANNELS leaves: the fields its mask names take the request's values (R42). -/
def configuredBy (r : Request) (c : ChannelConfig) : ChannelConfig :=
  let mask := r.byte 2
  { enabled := if mask.getLsbD 0 then decide (r.num 3 = 1) else c.enabled
    polarity := if mask.getLsbD 1 then polarityOfCode (r.byte 4) else c.polarity
    mode := if mask.getLsbD 2 then mergeModeOfCode (r.byte 5) else c.mode
    ceiling := if mask.getLsbD 3 then r.word 6 else c.ceiling
    park := if mask.getLsbD 4 then r.word 8 else c.park }

/-- The configuration of all channels after a CONFIG_CHANNELS. -/
def configuredTable (r : Request) (s : State) : Vector ChannelConfig 64 :=
  Vector.ofFn fun h =>
    if inRun (r.num 0) (r.num 1) h then configuredBy r (s.resolver.config.get h) else s.resolver.config.get h

/-- Some record changes. -/
def configChanges (r : Request) (s : State) : Bool :=
  allChannels.any fun h => decide ((configuredTable r s).get h ≠ s.resolver.config.get h)

/-- CONFIG_CHANNELS after its checks 2 to 4 (R41, R42): the run is written and recomputed as one change (R34). If no record
changes, nothing is recomputed and both counts are 0. -/
def runConfigChannels (_p : Port) (r : Request) (s : State) : Reply :=
  if channelsInRange r = false then refuse .range s
  else if configChanges r s = false then answer [0, 0] s
  else
    let t := { s with resolver := { s.resolver with config := configuredTable r s } }
    let x := recompute (inRun (r.num 0) (r.num 1)) noneDone t
    let u := raise x.2 x.1
    answer [byteOf (levelsChanged s u), byteOf (leadersChanged s u)] u

/-- CONFIG_CHANNELS (R42). -/
def execConfigChannels (s : State) : Outcome State Fault Refusal := .next (execute .configChannels runConfigChannels s)

end Sys2Proof.Machine
end

