-- ==== Sys2Proof/Machine/ClaimRequests.lean ====
section
/-! DEFINITION. Family: the claim requests: SET_LEVELS, RELEASE and RELEASE_ALL (R82 to R99). -/

namespace Sys2Proof.Machine
open Sys2Proof Host

/-- SET_LEVELS after its checks 2 to 4 (R85 to R89). Flags: bit 0 notify, bit 1 watch, bit 2 single-level. -/
def runSetLevels (p : Port) (r : Request) (s : State) : Reply :=
  let first := r.num 0
  let count := r.num 1
  let flags := r.byte 4
  if runInRange first count = false ∨ setWithin flags 3 = false then refuse .range s
  else
    let level : Chan → Option Level := fun h =>
      if inRun first count h then
        some (if flags.getLsbD 2 then r.word 5 else r.word (5 + 2 * (h.val - first)))
      else none
    writeChange p level (fun _ => false) { steps := r.num16 2, tag := r.tag, notify := flags.getLsbD 0 }
      (flags.getLsbD 1) false s

/-- SET_LEVELS (R87). -/
def execSetLevels (s : State) : Outcome State Fault Refusal := .next (execute .setLevels runSetLevels s)

/-- A release on the channels named, as one change, with the counts released and free after (R92, R93). -/
def releaseChange (p : Port) (o : FadeOrder) (on : Chan → Bool) (s : State) : Reply :=
  let t := applyChange (releasedLists (sourceOf p) o on s) noneDone s
  answer [byteOf (heldOn (sourceOf p) on s), byteOf t.store.free] t

/-- RELEASE after its checks 2 to 4 (R91 to R93). -/
def runRelease (p : Port) (r : Request) (s : State) : Reply :=
  if runInRange (r.num 0) (r.num 1) = false ∨ setWithin (r.byte 4) 1 = false then refuse .range s
  else
    releaseChange p { steps := r.num16 2, tag := r.tag, notify := (r.byte 4).getLsbD 0 } (inRun (r.num 0) (r.num 1)) s

/-- RELEASE (R92). -/
def execRelease (s : State) : Outcome State Fault Refusal := .next (execute .release runRelease s)

/-- RELEASE_ALL after its checks 2 to 4 (R94). -/
def runReleaseAll (p : Port) (r : Request) (s : State) : Reply :=
  if setWithin (r.byte 2) 1 = false then refuse .range s
  else releaseChange p { steps := r.num16 0, tag := r.tag, notify := (r.byte 2).getLsbD 0 } everywhere s

/-- RELEASE_ALL (R94). -/
def execReleaseAll (s : State) : Outcome State Fault Refusal := .next (execute .releaseAll runReleaseAll s)

end Sys2Proof.Machine
end

