-- ==== Sys2Proof/Machine/Fades.lean ====
section
/-! DEFINITION. Family: the Fade Engine: FADE_STEP, and the level arithmetic of a fade (R47 to R54). -/

namespace Sys2Proof.Machine
open Sys2Proof Host

/-- The level after `e` of `d` steps from `start` toward `target`, short of completion: start + trunc((target - start) × e ÷ d),
computed exactly, truncated toward zero (R50). -/
def fadeLevel (start target : Level) (d e : Nat) : Level :=
  BitVec.ofInt 16 (start.toNat + Int.tdiv (((target.toNat : Int) - start.toNat) * e) d)

/-- What one step makes of a claim (R50). -/
inductive Stepped where
  /-- The claim stays, at its new level. -/
  | kept (c : Claim)
  /-- Its fade completes and it is STEADY at its target (R52). -/
  | completed (c : Claim)
  /-- Its release completes and it is removed, its level having reached its target (R53). -/
  | removed
  deriving DecidableEq, Repr

/-- One step of a claim (R50, R52, R53). A STEADY claim is not touched. -/
def stepClaim (c : Claim) : Stepped :=
  match c.state with
  | .steady => .kept c
  | .fading f =>
    if f.elapsed + 1 = f.duration then .completed { c with state := .steady, level := c.target }
    else .kept { c with state := .fading { f with elapsed := f.elapsed + 1 },
                        level := fadeLevel f.start c.target f.duration (f.elapsed + 1) }
  | .releasing f =>
    if f.elapsed + 1 = f.duration then .removed
    else .kept { c with state := .releasing { f with elapsed := f.elapsed + 1 },
                        level := fadeLevel f.start c.target f.duration (f.elapsed + 1) }

/-- The claim a step leaves in the list, if any. -/
def steppedClaim (c : Claim) : Option Claim :=
  match stepClaim c with
  | .kept d => some d
  | .completed d => some d
  | .removed => none

/-- One step of a list: claims keep their places (R5, R20). -/
def stepList (l : List Claim) : List Claim := l.filterMap steppedClaim

/-- The tag of the fade a claim runs, 0 for none. -/
def fadeTag (c : Claim) : Byte :=
  match c.state with
  | .steady => 0
  | .fading f => f.tag
  | .releasing f => f.tag

/-- FADE_DONE of a claim whose fade completes with notify yes (R54, R190). `extra` is 1 for a release, 0 otherwise. -/
def fadeDone (h : Chan) (c : Claim) (extra : BitVec 16) : List Addressed :=
  match Source.port? c.source with
  | none => []
  | some p =>
    if c.notify then
      [(p, { kind := .fadeDone, subject := c.source.code, item := byteOf h.val, tag := fadeTag c, value := c.target,
             extra := extra })]
    else []

/-- The FADE_DONE notices a step raises for one claim. -/
def claimDone (h : Chan) (c : Claim) : List Addressed :=
  match stepClaim c with
  | .kept _ => []
  | .completed _ => fadeDone h c 0
  | .removed => fadeDone h c 1

/-- The FADE_DONE notices of one channel. -/
def listDone (h : Chan) (l : List Claim) : List Addressed := l.flatMap (claimDone h)

/-- The store's lists after a fade step. -/
def steppedLists (s : State) : Vector (List Claim) 64 := Vector.ofFn fun h => stepList (s.store.lists.get h)

/-- The expiry of the step timer (R47). With no claim FADING or RELEASING it is no fade step and the timer stops; else every
such claim is advanced as one change (R20), and the timer goes on by the step period, or stops if none is left. A stopped timer
does not expire. -/
def fadeStep (s : State) : State :=
  if resetLasts s ∨ s.fades.timer = none then s
  else if anyMoving s.store.lists then
    let t := applyChange (steppedLists s) (fun h => listDone h (s.store.lists.get h)) s
    { t with fades := { t.fades with timer := if anyMoving t.store.lists then some t.fades.period else none } }
  else { s with fades := { s.fades with timer := none } }

/-- FADE_STEP (R47). -/
def execFadeStep (s : State) : Outcome State Fault Refusal := .next (fadeStep s)

end Sys2Proof.Machine
end

