-- ==== Sys2Proof/Machine/Link.lean ====
section
/-! DEFINITION. Family: the control port links (R154 to R162): SELECT_ASSERTION, SUBMIT, COLLECT, COLLECT_NOTICE, STATUS and
UNRECOGNISED_TRANSACTION. -/

namespace Sys2Proof.Machine
open Sys2Proof Host

/-- Change one port's link. -/
def updLink (p : Port) (f : Link → Link) (s : State) : State := updPort p (fun pi => { pi with link := f pi.link }) s

/-- The byte the part is shifting out: the status byte, then the bytes of the entry chosen, then 0x00 (R155, R160, R161). -/
def outByte (l : Link) : Byte :=
  match l.shifted.length with
  | 0 => l.status
  | n + 1 => (l.head.getD []).getD n 0

/-- The bit on SDO: from a reset on, 0 (R172). -/
def sdoBit (l : Link) : Bool := if l.voided then false else bitOfByte (outByte l) l.outBits.length

/-- The SDO pin: undriven while select is high (R154). -/
def sdoPin (s : State) (p : Port) : Option Bool :=
  if (s.ports.get p).link.selected then some (sdoBit (s.ports.get p).link) else none

/-- The entry chosen at the completion of byte 0: the head of the queue the transaction reads (R160, R161). -/
def chosenHead (t : Transaction) (pi : PortInterface) : Option (List Byte) :=
  match t with
  | .collect => pi.responses.head?.map responseBytes
  | .collectNotice => pi.notices.head?.map noticeBytes
  | .submit | .status | .unrecognised _ => none

/-- The declared body length of a staged SUBMIT, once its header is complete (R157). -/
def declaredLength (staging : List Byte) : Nat := (word16 (staging.getD 2 0) (staging.getD 3 0)).toNat

/-- A byte of a SUBMIT after the code is staged if it belongs to the header or the declared body; later bytes are not stored
(R157). -/
def stageByte (b : Byte) (staging : List Byte) : List Byte :=
  if staging.length < 4 then staging ++ [b]
  else if declaredLength staging ≤ Config.bodyMax ∧ staging.length < 4 + declaredLength staging then staging ++ [b]
  else staging

/-- A byte completes: at byte 0 the code is recognised and the entry to shift out is chosen (R155, R160); a later byte of a
SUBMIT is staged. -/
def completeByte (inByte : Byte) (byteOut : Byte) (pi : PortInterface) : PortInterface :=
  let l := { pi.link with inBits := [], outBits := [], shifted := pi.link.shifted ++ [byteOut] }
  match pi.link.transaction with
  | none =>
    let t := transactionOfCode inByte
    { pi with link := { l with transaction := some t, head := chosenHead t pi } }
  | some .submit => { pi with link := { l with staging := stageByte inByte l.staging } }
  | some .collect | some .collectNotice | some .status | some (.unrecognised _) => { pi with link := l }

/-- One clock cycle: SDI is sampled at the rising edge, and the bit on SDO has been presented; at the eighth the byte is
complete (R154). -/
def clockBit (pi : PortInterface) (sdi : Bool) : PortInterface :=
  let inBits := pi.link.inBits ++ [sdi]
  let outBits := pi.link.outBits ++ [sdoBit pi.link]
  if inBits.length < 8 then { pi with link := { pi.link with inBits := inBits, outBits := outBits } }
  else completeByte (byteOfBits inBits) (byteOfBits outBits) pi

/-- Clock cycles of one transaction. -/
def clockBits (sdi : List Bool) (pi : PortInterface) : PortInterface := sdi.foldl clockBit pi

/-- The transaction ends: select is high, and the bits of a partial byte are discarded (R154). -/
def deselect (l : Link) : Link := { l with selected := false, inBits := [], outBits := [] }

/-- A transaction row: its clocking, or its deassertion with the effect `atEnd`. While select is high the part ignores the
clock (R154). A row names its transaction by `isThis`: clocking after which byte 0 has completed with another code, and the
deassertion of another transaction, are not this row's, and nothing happens (notes/assumptions/2.md). -/
def transact (isThis : Option Transaction → Bool) (atEnd : State → State) (p : Port) (act : LinkAct) (s : State) : State :=
  if !(s.ports.get p).link.selected then s
  else
    match act with
    | .clock sdi =>
      let s' := updPort p (clockBits sdi) s
      let t := (s'.ports.get p).link.transaction
      if t = none ∨ isThis t = true then s' else s
    | .deassert =>
      if isThis (s.ports.get p).link.transaction then atEnd (updLink p deselect s) else s

/-- The request a staged SUBMIT delivers, unless it falls short or declares more than 200 bytes (R157, R158). -/
def stagedRequest (staging : List Byte) : Option Request :=
  if staging.length < 4 then none
  else
    let n := declaredLength staging
    if Config.bodyMax < n ∨ staging.length < 4 + n then none
    else some { kind := staging.getD 0 0, tag := staging.getD 1 0, length := n, body := (staging.drop 4).take n }

/-- The outcome of a SUBMIT is latched (R159). -/
def latchOutcome (p : Port) (o : SubmitOutcome) (s : State) : State := updPort p (fun pi => { pi with outcome := o }) s

/-- The deassertion of a SUBMIT (R158): DISCARDED if it fell short or met a reset (R172), REFUSED_FULL if the request queue
holds 8, else ACCEPTED: the request goes to the tail of the queue, and the keepalive restarts if it is running (R70). -/
def submitEnd (p : Port) (s : State) : State :=
  let pi := s.ports.get p
  if pi.link.voided then latchOutcome p .discarded s
  else
    match stagedRequest pi.link.staging with
    | none => latchOutcome p .discarded s
    | some r =>
      if Config.queuePlaces ≤ pi.requests.length then latchOutcome p .refusedFull s
      else
        let s1 := updPort p (fun pi => { pi with outcome := .accepted, requests := pi.requests ++ [r] }) s
        let s2 := updSession p (fun rec => if keepaliveRuns rec then restartKeepalive rec else rec) s1
        chooseNext s2

/-- All the bytes of the entry chosen at byte 0 were shifted out complete (R160, R161). -/
def headShiftedOut (l : Link) : Bool :=
  match l.head with
  | none => false
  | some bytes => !l.voided && decide (1 + bytes.length ≤ l.shifted.length)

/-- The deassertion of a COLLECT (R160): the response shifted out whole is removed, which can make the port eligible (R167). -/
def collectEnd (p : Port) (s : State) : State :=
  if headShiftedOut (s.ports.get p).link then
    chooseNext (updPort p (fun pi => { pi with responses := pi.responses.tail }) s)
  else s

/-- The deassertion of a COLLECT_NOTICE (R161). -/
def collectNoticeEnd (p : Port) (s : State) : State :=
  if headShiftedOut (s.ports.get p).link then updPort p (fun pi => { pi with notices := pi.notices.tail }) s else s

/-- A code that is none of the four, or no code because byte 0 did not complete (R155). -/
def isUnrecognised : Option Transaction → Bool
  | none => true
  | some (.unrecognised _) => true
  | some _ => false

/-- The link at the assertion of select: the status byte is formed, and its first bit is on SDO. While a reset lasts SDO shifts
out 0x00, byte 0 included (R154, R156, R172). -/
def openLink (lasts : Bool) (pi : PortInterface) : Link :=
  { Link.idle with selected := true, voided := lasts, status := if lasts then 0 else statusByte pi }

/-- SELECT_ASSERTION (R156). A select that is asserted already cannot fall again. -/
def execSelectAssertion (p : Port) (s : State) : Outcome State Fault Refusal :=
  .next (if (s.ports.get p).link.selected then s
    else updPort p (fun pi => { pi with link := openLink (resetLasts s) pi }) s)

/-- SUBMIT (R157, R158). -/
def execSubmit (p : Port) (act : LinkAct) (s : State) : Outcome State Fault Refusal :=
  .next (transact (fun t => t == some .submit) (submitEnd p) p act s)

/-- COLLECT (R160). -/
def execCollect (p : Port) (act : LinkAct) (s : State) : Outcome State Fault Refusal :=
  .next (transact (fun t => t == some .collect) (collectEnd p) p act s)

/-- COLLECT_NOTICE (R161). -/
def execCollectNotice (p : Port) (act : LinkAct) (s : State) : Outcome State Fault Refusal :=
  .next (transact (fun t => t == some .collectNotice) (collectNoticeEnd p) p act s)

/-- STATUS: its deassertion changes nothing but the link (R161). -/
def execStatus (p : Port) (act : LinkAct) (s : State) : Outcome State Fault Refusal :=
  .next (transact (fun t => t == some .status) id p act s)

/-- UNRECOGNISED_TRANSACTION: its deassertion changes nothing but the link (R155). -/
def execUnrecognisedTransaction (p : Port) (act : LinkAct) (s : State) : Outcome State Fault Refusal :=
  .next (transact isUnrecognised id p act s)

end Sys2Proof.Machine
end

