-- ==== Sys2Proof/Machine/Observation.lean ====
section
/-! DEFINITION. Family: observation: READ_STATUS, READ_CHANNEL, READ_LEVELS and READ_SOURCE (R174 to R181), and UNKNOWN_KIND (R169). -/

namespace Sys2Proof.Machine
open Sys2Proof Host

/-- The body of a READ_STATUS response of a port (R175, R189). -/
def statusReport (p : Port) (s : State) : List Byte :=
  [byteOf s.store.free, byteOf (cpClaims s.store.counts), byteOf s.store.counts.str, byteOf s.store.reservedUnused] ++
  bytesOf s.scenes.free ++
  [s.sessions.cp0.state.code, s.sessions.cp1.state.code, s.sessions.cp2.state.code, s.stream.record.state.code,
   s.output.generator.code, holdFlagsByte s.output.holds, byteOf s.output.prescaleHeld, byteOf s.fades.period] ++
  bytesOf s.output.holdLimit ++
  [rightsByte (s.sessions.get p).rights, byteOf (s.ports.get p).lost]

/-- READ_STATUS after its checks: the report is taken and the port's lost-notice count is set to 0, in one event (R176). -/
def runReadStatus (p : Port) (_r : Request) (s : State) : Reply :=
  answer (statusReport p s) (updPort p (fun pi => { pi with lost := 0 }) s)

/-- READ_STATUS (R175). -/
def execReadStatus (s : State) : Outcome State Fault Refusal := .next (execute .readStatus runReadStatus s)

/-- Remaining fade steps: duration less elapsed, 0 for a STEADY claim (R43, R177). -/
def remainingSteps (c : Claim) : Nat :=
  match c.state with
  | .steady => 0
  | .fading f => f.duration - f.elapsed
  | .releasing f => f.duration - f.elapsed

/-- One claim entry of a READ_CHANNEL response (R177, R189). -/
def claimEntry (c : Claim) : List Byte :=
  [c.source.code, c.state.code] ++ bytes16 c.level ++ bytes16 c.target ++ bytesOf (remainingSteps c)

/-- The body of a READ_CHANNEL response (R177, R189). -/
def channelReport (h : Chan) (s : State) : List Byte :=
  let cfg := s.resolver.config.get h
  let res := s.resolver.resolved.get h
  let l := s.store.lists.get h
  [byteOf h.val, boolCode cfg.enabled, cfg.polarity.code, cfg.mode.code] ++ bytes16 cfg.ceiling ++ bytes16 cfg.park ++
  bytes16 res.level ++ bytes16 (s.output.active.get h) ++ [leaderCode res.leader, byteOf l.length] ++ l.flatMap claimEntry

/-- READ_CHANNEL after its checks 2 to 4 (R177). -/
def runReadChannel (_p : Port) (r : Request) (s : State) : Reply :=
  match chanOfNum (r.num 0) with
  | none => refuse .range s
  | some h => answer (channelReport h s) s

/-- READ_CHANNEL (R177). -/
def execReadChannel (s : State) : Outcome State Fault Refusal := .next (execute .readChannel runReadChannel s)

/-- The level READ_LEVELS reports of a channel: 0 selects resolved levels, 1 active levels (R179). -/
def selectedLevel (active : Bool) (s : State) (h : Chan) : Level :=
  if active then s.output.active.get h else (s.resolver.resolved.get h).level

/-- READ_LEVELS after its checks 2 to 4 (R179). -/
def runReadLevels (_p : Port) (r : Request) (s : State) : Reply :=
  if runInRange (r.num 0) (r.num 1) = false ∨ 1 < r.num 2 then refuse .range s
  else
    answer ([r.byte 0, r.byte 1, r.byte 2] ++
      (allChannels.filter (inRun (r.num 0) (r.num 1))).flatMap fun h =>
        bytes16 (selectedLevel (decide (r.num 2 = 1)) s h)) s

/-- READ_LEVELS (R179). -/
def execReadLevels (s : State) : Outcome State Fault Refusal := .next (execute .readLevels runReadLevels s)

/-- The body of a READ_SOURCE response (R180, R181, R189). -/
def sourceReport (src : Source) (s : State) : List Byte :=
  match Source.port? src with
  | some p =>
    let rec' := s.sessions.get p
    [src.code, rec'.state.code, byteOf rec'.priority.val, rightsByte rec'.rights] ++ bytesOf rec'.keepalivePeriod ++
    bytesOf rec'.keepaliveRemaining ++ [rec'.lossPolicy.code] ++ bytesOf rec'.lossFade ++
    [subscriptionsByte rec'.subscriptions, byteOf (claimCount s src), boolCode (s.output.holds.get p).flag]
  | none =>
    let rec' := s.stream.record
    [src.code, rec'.state.code, byteOf rec'.priority.val, 0] ++ bytesOf 0 ++ bytesOf 0 ++ [rec'.lossPolicy.code] ++
    bytesOf rec'.lossFade ++ [0, byteOf (claimCount s src), 0]

/-- READ_SOURCE after its checks 2 to 4 (R180). -/
def runReadSource (_p : Port) (r : Request) (s : State) : Reply :=
  match sourceOfCode (r.byte 0) with
  | none => refuse .range s
  | some src => answer (sourceReport src s) s

/-- READ_SOURCE (R180). -/
def execReadSource (s : State) : Outcome State Fault Refusal := .next (execute .readSource runReadSource s)

/-- UNKNOWN_KIND: the kind byte of the request in execution names no request kind; its body is not examined (R169, R170). -/
def unknownKind (s : State) : State :=
  match inExecution s with
  | none => s
  | some (p, r) =>
    match kindOfCode r.kind with
    | some _ => s
    | none => complete p r (refuse .unknownKind s)

def execUnknownKind (s : State) : Outcome State Fault Refusal := .next (unknownKind s)

end Sys2Proof.Machine
end

