-- ==== Sys2Proof/Machine/Output.lean ====
section
/-! DEFINITION. Family: the Output Generator: HOLD, UNHOLD, HOLD_TIMER_EXPIRY, CONFIG_OUTPUT and FRAME_START (R139 to R153). -/

namespace Sys2Proof.Machine
open Sys2Proof Host

/-- The hold a HOLD leaves: the flag set, the request's tag; with a limit the timer starts and the started limit is the limit,
with limit 0 the timer is stopped (R146). -/
def setHold (limit : Nat) (tag : Byte) (h : Hold) : Hold :=
  if limit = 0 then { h with flag := true, tag := tag, timer := none }
  else { h with flag := true, tag := tag, timer := some limit, startedLimit := limit }

/-- HOLD after its checks (R146). -/
def runHold (p : Port) (r : Request) (s : State) : Reply :=
  let t := updHold p (setHold s.output.holdLimit r.tag) s
  answer (bytesOf s.output.holdLimit ++ [byteOf (holdFlagCount t.output.holds)]) t

/-- HOLD (R146). -/
def execHold (s : State) : Outcome State Fault Refusal := .next (execute .hold runHold s)

/-- UNHOLD after its checks (R147). -/
def runUnhold (p : Port) (_r : Request) (s : State) : Reply :=
  let t := clearHold p s
  answer [byteOf (holdFlagCount t.output.holds)] t

/-- UNHOLD (R147). -/
def execUnhold (s : State) : Outcome State Fault Refusal := .next (execute .unhold runUnhold s)

/-- HOLD_EXPIRED (R148, R190), with the flags as they stand after the expiry. -/
def holdExpiredNotice (p : Port) (s : State) : Notice :=
  { kind := .holdExpired, subject := portCode p, item := 0xFF, tag := (s.output.holds.get p).tag,
    value := BitVec.ofNat 16 (s.output.holds.get p).startedLimit,
    extra := BitVec.ofNat 16 (holdFlagCount s.output.holds) }

/-- The expiry of a port's hold timer (R148). A stopped timer does not expire, and none runs while a reset lasts (R183). -/
def holdEvent (p : Port) (s : State) : State :=
  if resetLasts s ∨ (s.output.holds.get p).timer = none then s
  else
    let t := clearHold p s
    raise [(p, holdExpiredNotice p t)] t

/-- HOLD_TIMER_EXPIRY (R148). -/
def execHoldTimerExpiry (p : Port) (s : State) : Outcome State Fault Refusal := .next (holdEvent p s)

/-- The range check of CONFIG_OUTPUT (R151). -/
def outputInRange (r : Request) : Bool :=
  decide (1 ≤ r.num 0) && decide (r.num 0 ≤ 64) && [1, 2, 4, 8].contains (r.num 1) &&
    (decide (r.num16 2 = 0) || (decide (10 ≤ r.num16 2) && decide (r.num16 2 ≤ 5000)))

/-- CONFIG_OUTPUT after its checks 2 to 4 (R151, R152): the prescale held, the step period and the hold limit are written; the
prescale applied, a pending step expiry and running hold timers are not touched. -/
def runConfigOutput (_p : Port) (r : Request) (s : State) : Reply :=
  if outputInRange r = false then refuse .range s
  else
    let t : State :=
      { s with
        output := { s.output with prescaleHeld := r.num 0, holdLimit := r.num16 2 }
        fades := { s.fades with period := r.num 1 } }
    answer ([byteOf t.output.prescaleHeld, byteOf t.output.prescaleApplied, byteOf t.fades.period] ++
      bytesOf t.output.holdLimit) t

/-- CONFIG_OUTPUT (R152). -/
def execConfigOutput (s : State) : Outcome State Fault Refusal := .next (execute .configOutput runConfigOutput s)

/-- The frame start as an event: no frame runs while a reset lasts (R183). -/
def frameEvent (s : State) : State := if resetLasts s then s else frameStart s

/-- FRAME_START (R141). -/
def execFrameStart (s : State) : Outcome State Fault Refusal := .next (frameEvent s)

end Sys2Proof.Machine
end

