-- ==== Sys2Proof/Machine/Resets.lean ====
section
/-! DEFINITION. Family: resets: POR, RST, RESET_END and RESTART (R171 to R173, R182 to R184). -/

namespace Sys2Proof.Machine
open Sys2Proof Host

/-- POR: power-on reset begins. It has the effect of RST and empties the scene store (R102, R183). A power-on during any other
reset is a power-on reset (notes/assumptions/10.md). -/
def execPor (s : State) : Outcome State Fault Refusal :=
  .next { resetBlocks s with
    scenes := SceneStore.afterPor
    resetState := { lasting := some .por, pinLow := s.resetState.pinLow } }

/-- RST: the RESET pin is driven low. During a power-on reset it only makes that reset last (R183); a pin that is low already
cannot fall again. -/
def rstEvent (s : State) : State :=
  match s.resetState.lasting with
  | some .por => { s with resetState := { lasting := some .por, pinLow := true } }
  | some .rst => s
  | none => { resetBlocks s with resetState := { lasting := some .rst, pinLow := true } }

def execRst (s : State) : Outcome State Fault Refusal := .next (rstEvent s)

/-- RESET_END: the RESET pin is high, and for POR supply and clock are steady (R183). The RESTARTED notices carry the cause: 0
for POR, 1 for RST (R173). -/
def resetEnd (s : State) : State :=
  match s.resetState.lasting with
  | none => s
  | some .por => leaveReset 0 0xFF 0 s
  | some .rst => leaveReset 1 0xFF 0 s

def execResetEnd (s : State) : Outcome State Fault Refusal := .next (resetEnd s)

/-- RESTART: refused at a check it is answered like any request; otherwise it is a reset that begins and ends in this event,
and its response is discarded with the response queues (R171, R182). The RESTARTED notices carry cause 2, the port and the
request's tag (R173). The 1 ms time base begins anew (DESIGN CHOICE: notes/assumptions/20.md). -/
def restartEvent (s : State) : State :=
  match inExecution s with
  | none => s
  | some (p, r) =>
    if r.kind = Kind.restart.code then
      match earlyRefusal .restart p r s with
      | some st => complete p r (refuse st s)
      | none => leaveReset 2 (portCode p) r.tag (resetBlocks s)
    else s

/-- RESTART (R182). -/
def execRestart (s : State) : Outcome State Fault Refusal := .next (restartEvent s)

end Sys2Proof.Machine
end

