-- ==== Sys2Proof/Machine/Scenes.lean ====
section
/-! DEFINITION. Family: the Scene Store: DEFINE_SCENE, ERASE_SCENE, CAPTURE_SCENE, READ_SCENE and RECALL (R100 to R117). -/

namespace Sys2Proof.Machine
open Sys2Proof Host

/-- The entries a scene holds: none for EMPTY (R100). -/
def sceneEntriesOf : Scene → List (Chan × Level)
  | .empty => []
  | .defined _ es => es

/-- The default fade, reported as 0 for EMPTY (R100). -/
def sceneFade : Scene → Nat
  | .empty => 0
  | .defined f _ => f

/-- The scene is DEFINED. -/
def sceneDefined : Scene → Bool
  | .empty => false
  | .defined _ _ => true

/-- SCENE_CHANGED for every port that receives it (R111, R190). -/
def raiseSceneChanged (p : Port) (n : Fin 32) (tag : Byte) (s : State) : State :=
  let sc := s.scenes.scenes.get n
  raise (toSubscribers .scenes
    { kind := .sceneChanged, subject := portCode p, item := byteOf n.val, tag := tag,
      value := if sceneDefined sc then 1 else 0, extra := BitVec.ofNat 16 (sceneEntriesOf sc).length } s) s

/-- Put a scene in place of another: the old entries return to the pool and the new are taken (R101). -/
def storeScene (n : Fin 32) (sc : Scene) (st : SceneStore) : SceneStore :=
  { scenes := st.scenes.set n sc
    free := st.free + (sceneEntriesOf (st.scenes.get n)).length - (sceneEntriesOf sc).length }

/-- Write a scene after its space check, in which the old entries count as free, and raise SCENE_CHANGED (R106, R108). -/
def writeScene (p : Port) (tag : Byte) (n : Fin 32) (fade : Nat) (es : List (Chan × Level)) (s : State) : Reply :=
  let available := s.scenes.free + (sceneEntriesOf (s.scenes.scenes.get n)).length
  if available < es.length then
    { status := .noSceneSpace, body := byteOf es.length :: bytesOf available, state := s }
  else
    let t := raiseSceneChanged p n tag { s with scenes := storeScene n (.defined fade es) s.scenes }
    answer (byteOf es.length :: bytesOf t.scenes.free) t

/-- The `k` entries of a DEFINE_SCENE body from byte `i` on, unless a channel exceeds 63 or is not greater than the one before
it (R104, R105). -/
def parseEntries (r : Request) (i : Nat) (after : Option Nat) : Nat → Option (List (Chan × Level))
  | 0 => some []
  | k + 1 =>
    match chanOfNum (r.num i) with
    | none => none
    | some h =>
      if after.all (fun a => decide (a < h.val)) then
        (parseEntries r (i + 3) (some h.val) k).map fun es => (h, r.word (i + 1)) :: es
      else none

/-- DEFINE_SCENE after its checks 2 to 4 (R105, R106). -/
def runDefineScene (p : Port) (r : Request) (s : State) : Reply :=
  match sceneOfNum (r.num 0) with
  | none => refuse .range s
  | some n =>
    if r.num 3 = 0 ∨ 64 < r.num 3 then refuse .range s
    else
      match parseEntries r 4 none (r.num 3) with
      | none => refuse .range s
      | some es => writeScene p r.tag n (r.num16 1) es s

/-- DEFINE_SCENE (R106). -/
def execDefineScene (s : State) : Outcome State Fault Refusal := .next (execute .defineScene runDefineScene s)

/-- ERASE_SCENE after its checks 2 to 4 (R107). An EMPTY scene is left as it is and raises no notice. -/
def runEraseScene (p : Port) (r : Request) (s : State) : Reply :=
  match sceneOfNum (r.num 0) with
  | none => refuse .range s
  | some n =>
    let sc := s.scenes.scenes.get n
    let t := if sceneDefined sc then
        raiseSceneChanged p n r.tag { s with scenes := storeScene n .empty s.scenes }
      else s
    answer (byteOf (sceneEntriesOf sc).length :: bytesOf t.scenes.free) t

/-- ERASE_SCENE (R107). -/
def execEraseScene (s : State) : Outcome State Fault Refusal := .next (execute .eraseScene runEraseScene s)

/-- CAPTURE_SCENE after its checks 2 to 4 (R108, R109): one entry for each channel of the run, at its resolved level. -/
def runCaptureScene (p : Port) (r : Request) (s : State) : Reply :=
  match sceneOfNum (r.num 0) with
  | none => refuse .range s
  | some n =>
    if runInRange (r.num 1) (r.num 2) = false then refuse .range s
    else
      let es := (allChannels.filter (inRun (r.num 1) (r.num 2))).map fun h => (h, (s.resolver.resolved.get h).level)
      writeScene p r.tag n (r.num16 3) es s

/-- CAPTURE_SCENE (R108). -/
def execCaptureScene (s : State) : Outcome State Fault Refusal := .next (execute .captureScene runCaptureScene s)

/-- READ_SCENE after its checks 2 to 4 (R110, R189). -/
def runReadScene (_p : Port) (r : Request) (s : State) : Reply :=
  match sceneOfNum (r.num 0) with
  | none => refuse .range s
  | some n =>
    let sc := s.scenes.scenes.get n
    let es := sceneEntriesOf sc
    answer ([byteOf n.val, boolCode (sceneDefined sc)] ++ bytesOf (sceneFade sc) ++ [byteOf es.length] ++
      es.flatMap fun e => byteOf e.1.val :: bytes16 e.2) s

/-- READ_SCENE (R110). -/
def execReadScene (s : State) : Outcome State Fault Refusal := .next (execute .readScene runReadScene s)

/-- The level a scene gives a channel, if it names it. -/
def sceneLevel (es : List (Chan × Level)) (h : Chan) : Option Level := (es.find? fun e => e.1 == h).map (·.2)

/-- RECALL after its checks 2 to 4 (R112 to R116). Flags: bit 0 notify, bit 1 watch, bit 2 exclusive, bit 3 fade-given. -/
def runRecall (p : Port) (r : Request) (s : State) : Reply :=
  let flags := r.byte 1
  match sceneOfNum (r.num 0) with
  | none => refuse .range s
  | some n =>
    if setWithin flags 4 = false then refuse .range s
    else
      match s.scenes.scenes.get n with
      | .empty => refuse .noScene s
      | .defined fade es =>
        let steps := if flags.getLsbD 3 then r.num16 2 else fade
        writeChange p (sceneLevel es) (fun _ => flags.getLsbD 2) { steps := steps, tag := r.tag, notify := flags.getLsbD 0 }
          (flags.getLsbD 1) true s

/-- RECALL (R113). -/
def execRecall (s : State) : Outcome State Fault Refusal := .next (execute .recall runRecall s)

end Sys2Proof.Machine
end

