-- ==== Sys2Proof/Machine/Sessions.lean ====
section
/-! DEFINITION. Family: the Session Table: ATTACH, DETACH, PING, GRANT, CONFIG_SOURCE and LAPSE (R63 to R81). -/

namespace Sys2Proof.Machine
open Sys2Proof Host

/-- SOURCE_STATE for every port that receives it, as the state stands (R75). -/
def raiseSourceState (p : Port) (tag : Byte) (s : State) : State :=
  raise (toSubscribers .sources (sourceStateNotice p tag s) s) s

/-- ATTACH after its checks 2 to 4 (R65, R66). -/
def runAttach (p : Port) (r : Request) (s : State) : Reply :=
  match lossPolicyOfCode (r.byte 2) with
  | none => refuse .range s
  | some policy =>
    if 6000 < r.num16 0 ∨ setWithin (r.byte 5) 3 = false then refuse .range s
    else
      let found := (s.sessions.get p).state
      let t := updSession p (fun rec => restartKeepalive
        { rec with
          state := .attached, keepalivePeriod := r.num16 0, lossPolicy := policy, lossFade := r.num16 3,
          subscriptions := subscriptionsOfByte (r.byte 5) }) s
      let u := if found = .attached then t else raiseSourceState p r.tag t
      let rec' := u.sessions.get p
      answer [rec'.state.code, byteOf rec'.priority.val, rightsByte rec'.rights, byteOf (claimCount u (sourceOf p))] u

/-- ATTACH (R65). -/
def execAttach (s : State) : Outcome State Fault Refusal := .next (execute .attach runAttach s)

/-- DETACH after its checks (R67). The new state is DETACHED if no claim is left after the release, else DETACHING; the lead
notices of the release come before the SOURCE_STATE. -/
def runDetach (p : Port) (r : Request) (s : State) : Reply :=
  let o : FadeOrder := { steps := r.num16 0, tag := r.tag, notify := false }
  let src := sourceOf p
  let lists := releasedLists src o everywhere s
  let found := (s.sessions.get p).state
  let new : SessionState := if countClaims lists src = 0 then .detached else .detaching
  let t := updSession p (fun rec => { rec with state := new, keepaliveRemaining := 0 }) (clearHold p s)
  let u := applyChange lists noneDone t
  let v := if found = new then u else raiseSourceState p r.tag u
  answer [byteOf (heldOn src everywhere s), new.code] v

/-- DETACH (R67). -/
def execDetach (s : State) : Outcome State Fault Refusal := .next (execute .detach runDetach s)

/-- PING: state, keepalive remaining, claim count (R69). -/
def runPing (p : Port) (_r : Request) (s : State) : Reply :=
  let rec' := s.sessions.get p
  answer ([rec'.state.code] ++ bytesOf rec'.keepaliveRemaining ++ [byteOf (claimCount s (sourceOf p))]) s

/-- PING (R69). -/
def execPing (s : State) : Outcome State Fault Refusal := .next (execute .ping runPing s)

/-- The number of ports that hold CONFIG (R78). -/
def configHolders (t : PerPort SourceRecord) : Nat :=
  t.cp0.rights.config.toNat + t.cp1.rights.config.toNat + t.cp2.rights.config.toNat

/-- GRANT after its checks 2 to 4 (R78): RANGE, then LAST_CONFIG, else the target's rights become the new set. -/
def runGrant (_p : Port) (r : Request) (s : State) : Reply :=
  match portOfCode (r.byte 0) with
  | none => refuse .range s
  | some target =>
    if setWithin (r.byte 1) 3 = false then refuse .range s
    else
      let t := updSession target (fun rec => { rec with rights := rightsOfByte (r.byte 1) }) s
      if configHolders t.sessions = 0 then refuse .lastConfig s
      else answer [rightsByte (t.sessions.get target).rights, byteOf (configHolders t.sessions)] t

/-- GRANT (R78). -/
def execGrant (s : State) : Outcome State Fault Refusal := .next (execute .grant runGrant s)

/-- Write a source's priority into its record (R21, R79). -/
def setPriority (src : Source) (n : Fin 8) (s : State) : State :=
  match Source.port? src with
  | some p => updSession p (fun rec => { rec with priority := n }) s
  | none => { s with stream := { s.stream with record := { s.stream.record with priority := n } } }

/-- The lists after a re-sort: every claim of the source goes to the front of its tier (R21). -/
def resortedLists (src : Source) (s : State) : Vector (List Claim) 64 :=
  Vector.ofFn fun h =>
    let l := s.store.lists.get h
    match findClaim src l with
    | none => l
    | some c => placeClaim (priorityOf s) c (removeClaim src l)

/-- CONFIG_SOURCE after its checks 2 to 4 (R79): the record and the re-sort are one change. -/
def runConfigSource (_p : Port) (r : Request) (s : State) : Reply :=
  match sourceOfCode (r.byte 0), priorityOfNum (r.num 1) with
  | some src, some n =>
    let t := setPriority src n s
    let u := applyChange (resortedLists src t) noneDone t
    answer [byteOf (heldOn src everywhere s), byteOf (leadersChanged s u)] u
  | _, _ => refuse .range s

/-- CONFIG_SOURCE (R79). -/
def execConfigSource (s : State) : Outcome State Fault Refusal := .next (execute .configSource runConfigSource s)

/-- The lapse's SOURCE_STATE: tag 0, to the source's own port whatever its subscriptions and rights, and to every other port
that receives it (R71, R75). -/
def raiseLapseState (p : Port) (s : State) : State :=
  raise ((allPorts.filter fun q => q == p || receives .sources s q).map fun q => (q, sourceStateNotice p 0 s)) s

/-- The keepalive expiry of a source (R71). A stopped timer does not expire (R64), and none runs while a reset lasts (R183). -/
def lapseEvent (p : Port) (s : State) : State :=
  let rec' := s.sessions.get p
  if resetLasts s ∨ keepaliveRuns rec' = false then s
  else
    let t := updSession p (fun rec => { rec with state := .lapsed, keepaliveRemaining := 0 }) (clearHold p s)
    let u := match rec'.lossPolicy with
      | .hold => t
      | .release => releaseAllOf (sourceOf p) { steps := rec'.lossFade, tag := 0, notify := false } t
    raiseLapseState p u

/-- LAPSE (R71). -/
def execLapse (p : Port) (s : State) : Outcome State Fault Refusal := .next (lapseEvent p s)

end Sys2Proof.Machine
end

