-- ==== Sys2Proof/Machine/Stream.lean ====
section
/-! DEFINITION. Family: the Stream Receiver: MARK_WORD, STREAM_WORD, FRAMING_ERROR, FALSE_START, IDLE, LOSS_TIMER_EXPIRY, CONFIG_STREAM
and READ_STREAM (R118 to R138). -/

namespace Sys2Proof.Machine
open Sys2Proof Host

/-- Change the receiver. -/
def updStream (f : StreamReceiver → StreamReceiver) (s : State) : State := { s with stream := f s.stream }

/-- The receiver enters MUTED and its staging buffer is emptied (R120). -/
def mute (x : StreamReceiver) : StreamReceiver := { x with receiver := .muted, staging := [] }

/-- A mark word evaluated as a header: with a window and a matching or broadcast id it opens a packet as word 1, else the
receiver is MUTED (R121). -/
def evaluateHeader (data : Byte) (noise : Bool) (x : StreamReceiver) : StreamReceiver :=
  if x.record.count ≠ 0 ∧ (data = x.record.id ∨ data = 255) then
    { x with receiver := .collecting, staging := [{ data := data, noise := noise }] }
  else mute x

/-! ### Packets (R120 to R126) -/

/-- The sum of the data values modulo 256 (R123). -/
def checkSum (ws : List StagedWord) : Byte := ws.foldl (fun acc w => acc + w.data) 0

/-- What the evaluation of a packet comes to (R123). -/
inductive PacketVerdict where
  | noise | short | check | accepted
  deriving DecidableEq, Repr

/-- The four tests at a packet's end, in this order; the first that fails gives the discard reason (R123). -/
def evaluatePacket (width : SlotWidth) (ws : List StagedWord) : PacketVerdict :=
  if ws.any (·.noise) then .noise
  else if ws.length < 3 then .short
  else if width = .wide ∧ (ws.length - 3) % 2 = 1 then .short
  else if checkSum ws ≠ 0 then .check
  else .accepted

/-- The levels of the level words of a NARROW packet: data value × 257 (R125). -/
def narrowLevels (ds : List Byte) : List Level := ds.map fun d => BitVec.ofNat 16 (d.toNat * 257)

/-- The levels of the level words of a WIDE packet: two words each, high byte first (R125). -/
def wideLevels : List Byte → List Level
  | hi :: lo :: ds => word16 hi lo :: wideLevels ds
  | _ => []

/-- The slot levels of an accepted packet, from its first slot up: the words from word 3 to the one before the check (R125). -/
def packetLevels (width : SlotWidth) (ws : List StagedWord) : List Level :=
  let ds := ((ws.drop 2).dropLast).map (·.data)
  match width with
  | .narrow => narrowLevels ds
  | .wide => wideLevels ds

/-- The first slot number: the data value of word 2 (R125). -/
def firstSlot (ws : List StagedWord) : Nat :=
  match ws.drop 1 with
  | w :: _ => w.data.toNat
  | [] => 0

/-- The level an accepted packet gives a channel: slot base + (h - first) maps to channel h of the window, if the packet
carries it (R125). -/
def mappedLevel (rec : StreamRecord) (ws : List StagedWord) (h : Chan) : Option Level :=
  if inRun rec.first rec.count h then
    let slot := rec.slotBase + (h.val - rec.first)
    if firstSlot ws ≤ slot then (packetLevels rec.width ws)[slot - firstSlot ws]? else none
  else none

/-- A stream application on one channel (R15): a new claim is placed; a claim whose level differs from the value is placed;
one whose level equals it is set where it stands. In every case it is STEADY at the value, with notify and watch no. -/
def streamClaim (v : Level) : Claim :=
  { source := .str, state := .steady, level := v, target := v, notify := false, watch := false }

/-- Level, target and state of an existing STR claim are set; notify and watch are not written (R2, R15). -/
def setStreamClaim (v : Level) (c : Claim) : Claim := { c with state := .steady, level := v, target := v }

/-- The list of a mapped channel after a stream application (R15). -/
def applySlot (prio : Source → Fin 8) (v : Level) (l : List Claim) : List Claim :=
  match findClaim .str l with
  | none => placeClaim prio (streamClaim v) l
  | some c =>
    if v = c.level then mapClaim .str (setStreamClaim v) l
    else placeClaim prio (setStreamClaim v c) (removeClaim .str l)

/-- The lists after a stream application (R15). -/
def appliedLists (ws : List StagedWord) (s : State) : Vector (List Claim) 64 :=
  Vector.ofFn fun h =>
    match mappedLevel s.stream.record ws h with
    | some v => applySlot (priorityOf s) v (s.store.lists.get h)
    | none => s.store.lists.get h

/-- STREAM_UP and STREAM_LOST (R132, R190). -/
def streamNotice (kind : NoticeKind) (value : BitVec 16) (s : State) : Notice :=
  { kind := kind, subject := Source.str.code, item := 0xFF, tag := 0, value := value,
    extra := BitVec.ofNat 16 (claimCount s .str) }

/-- Raise a notice of the STREAM class (R132). -/
def raiseStream (kind : NoticeKind) (value : BitVec 16) (s : State) : State :=
  raise (toSubscribers .stream (streamNotice kind value s) s) s

/-- An accepted packet (R126): counted, applied, the loss timer restarted, and the stream LIVE, with STREAM_UP if it was
WAITING or LOST. -/
def acceptPacket (ws : List StagedWord) (s : State) : State :=
  let left := s.stream.record.state
  let t := updStream (fun x =>
    { x with counters := { x.counters with accepted := bump x.counters.accepted }, lossRemaining := x.record.lostTimeout }) s
  let u := applyChange (appliedLists ws t) noneDone t
  if left = .waiting ∨ left = .lost then
    raiseStream .streamUp (left.code.setWidth 16)
      (updStream (fun x => { x with record := { x.record with state := .live } }) u)
  else u

/-- The end of a packet in COLLECTING: it is evaluated, counted under its verdict, and applied if accepted. The receiver is
left MUTED with its buffer emptied; a mark word that ended the packet is evaluated afterwards (R123). -/
def endPacket (s : State) : State :=
  let ws := s.stream.staging
  let t := updStream mute s
  match evaluatePacket s.stream.record.width ws with
  | .noise => updStream (fun x => { x with counters := { x.counters with noise := bump x.counters.noise } }) t
  | .short => updStream (fun x => { x with counters := { x.counters with short := bump x.counters.short } }) t
  | .check => updStream (fun x => { x with counters := { x.counters with check := bump x.counters.check } }) t
  | .accepted => acceptPacket ws t

/-- A packet in COLLECTING ends; in MUTED there is none (R120). -/
def endPacketIfAny (s : State) : State :=
  match s.stream.receiver with
  | .muted => s
  | .collecting => endPacket s

/-- A stop bit of a good word, or an event that ends the wait for idle (R119, R135). -/
def armIdle (b : Bool) (s : State) : State := updStream (fun x => { x with idleArmed := b }) s

/-- What the receiver waits for after a fall of the line it has taken: a sample at 1 (R119), or the next fall at once. -/
def seek (high : Bool) (s : State) : State := updStream (fun x => { x with awaitsHigh := high }) s

/-- The fall after these samples is one the receiver takes: no reset lasts (R138), and it does not still wait for a sample
at 1 (R119, R135, R138). -/
def takesFall (lead : List Bool) (s : State) : Bool := !resetLasts s && (!s.stream.awaitsHigh || lead.any id)

/-! ### The rows -/

/-- MARK_WORD: the packet in collection ends and is evaluated, then the word is evaluated as a header (R121, R123). -/
def markWord (w : WordSamples) (s : State) : State :=
  if takesFall w.lead s = false then s
  else
    match lineWord w with
    | .word data true noise => updStream (evaluateHeader data noise) (armIdle true (seek false (endPacketIfAny s)))
    | .word _ false _ | .falseStart | .framing => s

def execMarkWord (w : WordSamples) (s : State) : Outcome State Fault Refusal := .next (markWord w s)

/-- A word without mark bit in COLLECTING is appended; the 132nd discards the packet as OVERLONG (R122). -/
def appendWord (data : Byte) (noise : Bool) (x : StreamReceiver) : StreamReceiver :=
  match x.receiver with
  | .muted => x
  | .collecting =>
    if x.staging.length < Config.stagingWords then { x with staging := x.staging ++ [{ data := data, noise := noise }] }
    else mute { x with counters := { x.counters with overlong := bump x.counters.overlong } }

/-- STREAM_WORD (R122). -/
def streamWord (w : WordSamples) (s : State) : State :=
  if takesFall w.lead s = false then s
  else
    match lineWord w with
    | .word data false noise => armIdle true (seek false (updStream (appendWord data noise) s))
    | .word _ true _ | .falseStart | .framing => s

def execStreamWord (w : WordSamples) (s : State) : Outcome State Fault Refusal := .next (streamWord w s)

/-- A framing error in COLLECTING discards the packet; in MUTED it is ignored and not counted (R121, R122). -/
def framingDiscard (x : StreamReceiver) : StreamReceiver :=
  match x.receiver with
  | .muted => x
  | .collecting => mute { x with counters := { x.counters with framing := bump x.counters.framing } }

/-- FRAMING_ERROR: no idle event follows until the next good word, and the next word is sought only once the line has been
sampled at 1, so that a break of any length gives one framing error (R119, R122). -/
def framingError (w : WordSamples) (s : State) : State :=
  if takesFall w.lead s = false then s
  else
    match lineWord w with
    | .framing => armIdle false (seek true (updStream framingDiscard s))
    | .word _ _ _ | .falseStart => s

def execFramingError (w : WordSamples) (s : State) : Outcome State Fault Refusal := .next (framingError w s)

/-- FALSE_START: no word is formed, nothing is counted, no noise mark is kept, the idle count goes on, and a word is sought from
the next fall (R118, R119). -/
def falseStart (w : StartSamples) (s : State) : State :=
  if takesFall w.lead s && vote w.start then seek false s else s

def execFalseStart (w : StartSamples) (s : State) : Outcome State Fault Refusal := .next (falseStart w s)

/-- IDLE: handed on once for each stop bit it follows (R119); a packet in collection ends, and the receiver is MUTED (R123). -/
def idleEvent (s : State) : State :=
  if resetLasts s ∨ s.stream.idleArmed = false then s else endPacketIfAny (armIdle false s)

def execIdle (s : State) : Outcome State Fault Refusal := .next (idleEvent s)

/-- The expiry of the loss timer (R130). It runs in LIVE alone (R129), and not while a reset lasts (R183). -/
def lossEvent (s : State) : State :=
  if resetLasts s ∨ s.stream.record.state ≠ .live then s
  else
    let rec' := s.stream.record
    let t := updStream (fun x => { x with record := { x.record with state := .lost }, lossRemaining := 0 }) s
    let u := match rec'.lossPolicy with
      | .hold => t
      | .release => releaseAllOf .str { steps := rec'.lossFade, tag := 0, notify := false } t
    raiseStream .streamLost (rec'.lossPolicy.code.setWidth 16) u

def execLossTimerExpiry (s : State) : Outcome State Fault Refusal := .next (lossEvent s)

/-! ### CONFIG_STREAM and READ_STREAM -/

/-- The lists with every STR claim removed (R22). -/
def withoutStream (s : State) : Vector (List Claim) 64 := Vector.ofFn fun h => removeClaim .str (s.store.lists.get h)

/-- The receiver's part of a reconfiguration: a packet in assembly is discarded as RECONFIGURED, a word being sampled is
abandoned with the idle count and the next one sought once the line has been sampled at 1, the loss timer stops (R134, R135). -/
def reconfigure (rec : StreamRecord) (x : StreamReceiver) : StreamReceiver :=
  let y := match x.receiver with
    | .muted => x
    | .collecting => { x with counters := { x.counters with reconfigured := bump x.counters.reconfigured } }
  { mute y with record := rec, lossRemaining := 0, idleArmed := false, awaitsHigh := true }

/-- The record a CONFIG_STREAM writes: every field of the request, the state by the count; the priority is kept (R134). -/
def streamRecordOf (r : Request) (width : SlotWidth) (policy : LossPolicy) (old : StreamRecord) : StreamRecord :=
  { state := if r.num 3 = 0 then .off else .waiting
    priority := old.priority
    id := r.byte 0
    slotBase := r.num 1
    first := r.num 2
    count := r.num 3
    width := width
    divisor := r.num16 6
    lostTimeout := r.num16 8
    lossPolicy := policy
    lossFade := r.num16 10 }

/-- The range check of CONFIG_STREAM but for width and loss policy (R133). -/
def streamInRange (r : Request) : Bool :=
  decide (r.byte 0 ≠ 255) && decide (r.num 2 ≤ 63) && decide (r.num 3 ≤ 64) && decide (r.num 2 + r.num 3 ≤ 64) &&
    decide (r.num 1 + r.num 3 ≤ 256) && decide (r.num16 6 ≤ 4095) && decide (50 ≤ r.num16 8) && decide (r.num16 8 ≤ 2000)

/-- CONFIG_STREAM after its checks 2 to 4 (R133 to R135): the space check, then as one change the STR claims are removed, the
reservation moves from the old count to the new (R22), and the record is written. -/
def runConfigStream (_p : Port) (r : Request) (s : State) : Reply :=
  match widthOfCode (r.byte 4), lossPolicyOfCode (r.byte 5) with
  | some width, some policy =>
    if streamInRange r = false then refuse .range s
    else
      let m := s.stream.record.count
      let n := r.num 3
      if s.store.free + m < n then
        { status := .noClaimSpace, body := [byteOf n, byteOf (s.store.free + m)], state := s }
      else
        let rec' := streamRecordOf r width policy s.stream.record
        let t := applyChange (withoutStream s) noneDone (updStream (reconfigure rec') s)
        let u := { t with store := { t.store with free := s.store.free + m - n, reservedUnused := n } }
        answer [rec'.state.code, byteOf (heldOn .str everywhere s), byteOf u.store.free, byteOf n] u
  | _, _ => refuse .range s

/-- CONFIG_STREAM (R134). -/
def execConfigStream (s : State) : Outcome State Fault Refusal := .next (execute .configStream runConfigStream s)

/-- The body of a READ_STREAM response (R136, R189). -/
def streamReport (x : StreamReceiver) (strClaims : Nat) : List Byte :=
  [x.record.id, byteOf x.record.slotBase, byteOf x.record.first, byteOf x.record.count, x.record.width.code,
   x.record.lossPolicy.code] ++
  bytesOf x.record.divisor ++ bytesOf x.record.lostTimeout ++ bytesOf x.record.lossFade ++
  [byteOf x.record.priority.val, x.record.state.code, x.receiver.code] ++ bytesOf x.lossRemaining ++ [byteOf strClaims] ++
  bytesOf x.counters.accepted ++ bytesOf x.counters.framing ++ bytesOf x.counters.noise ++ bytesOf x.counters.overlong ++
  bytesOf x.counters.short ++ bytesOf x.counters.check ++ bytesOf x.counters.reconfigured

/-- READ_STREAM after its checks 2 to 4 (R136): with clear set, the counters are set to 0 after their values are taken. -/
def runReadStream (_p : Port) (r : Request) (s : State) : Reply :=
  if setWithin (r.byte 0) 1 = false then refuse .range s
  else
    answer (streamReport s.stream (claimCount s .str))
      (if (r.byte 0).getLsbD 0 then updStream (fun x => { x with counters := StreamCounters.zero }) s else s)

/-- READ_STREAM (R136). -/
def execReadStream (s : State) : Outcome State Fault Refusal := .next (execute .readStream runReadStream s)

end Sys2Proof.Machine
end

