-- ==== Sys2Proof/Machine/Dispatch.lean ====
section
/-! DEFINITION. The effect of each command on everything but the queue: one arm per row of spec/opcode_table.json. -/

namespace Sys2Proof.Machine
open Sys2Proof

def exec (i : Instr) (s : State) : Host.Outcome State Fault Refusal :=
  match i with
  | .submit p act => Sys2Proof.Machine.execSubmit p act s
  | .collect p act => Sys2Proof.Machine.execCollect p act s
  | .collectNotice p act => Sys2Proof.Machine.execCollectNotice p act s
  | .status p act => Sys2Proof.Machine.execStatus p act s
  | .unrecognisedTransaction p act => Sys2Proof.Machine.execUnrecognisedTransaction p act s
  | .unknownKind => Sys2Proof.Machine.execUnknownKind s
  | .attach => Sys2Proof.Machine.execAttach s
  | .detach => Sys2Proof.Machine.execDetach s
  | .ping => Sys2Proof.Machine.execPing s
  | .setLevels => Sys2Proof.Machine.execSetLevels s
  | .release => Sys2Proof.Machine.execRelease s
  | .releaseAll => Sys2Proof.Machine.execReleaseAll s
  | .recall => Sys2Proof.Machine.execRecall s
  | .hold => Sys2Proof.Machine.execHold s
  | .unhold => Sys2Proof.Machine.execUnhold s
  | .defineScene => Sys2Proof.Machine.execDefineScene s
  | .eraseScene => Sys2Proof.Machine.execEraseScene s
  | .captureScene => Sys2Proof.Machine.execCaptureScene s
  | .readScene => Sys2Proof.Machine.execReadScene s
  | .readStatus => Sys2Proof.Machine.execReadStatus s
  | .readChannel => Sys2Proof.Machine.execReadChannel s
  | .readLevels => Sys2Proof.Machine.execReadLevels s
  | .readSource => Sys2Proof.Machine.execReadSource s
  | .readStream => Sys2Proof.Machine.execReadStream s
  | .configChannels => Sys2Proof.Machine.execConfigChannels s
  | .configSource => Sys2Proof.Machine.execConfigSource s
  | .configStream => Sys2Proof.Machine.execConfigStream s
  | .configOutput => Sys2Proof.Machine.execConfigOutput s
  | .grant => Sys2Proof.Machine.execGrant s
  | .restart => Sys2Proof.Machine.execRestart s
  | .fadeStep => Sys2Proof.Machine.execFadeStep s
  | .lapse p => Sys2Proof.Machine.execLapse p s
  | .holdTimerExpiry p => Sys2Proof.Machine.execHoldTimerExpiry p s
  | .lossTimerExpiry => Sys2Proof.Machine.execLossTimerExpiry s
  | .frameStart => Sys2Proof.Machine.execFrameStart s
  | .markWord w => Sys2Proof.Machine.execMarkWord w s
  | .streamWord w => Sys2Proof.Machine.execStreamWord w s
  | .framingError w => Sys2Proof.Machine.execFramingError w s
  | .falseStart start => Sys2Proof.Machine.execFalseStart start s
  | .idle => Sys2Proof.Machine.execIdle s
  | .por => Sys2Proof.Machine.execPor s
  | .rst => Sys2Proof.Machine.execRst s
  | .resetEnd => Sys2Proof.Machine.execResetEnd s
  | .selectAssertion p => Sys2Proof.Machine.execSelectAssertion p s

end Sys2Proof.Machine
end

