-- ==== Sys2Proof/Machine/Idle.lean ====
section
/-! DEFINITION. What the part does when no command waits: one core clock of its frame timer and of the 1 ms time base, or the end of
the execution that runs (00_scope.md "Time"; R140, R168, R183; notes/assumptions/3.md, 4.md, 5.md). -/

namespace Sys2Proof.Machine
open Sys2Proof Host

/-! ### What falls due at a core clock -/

/-- The timer events of the part (00_scope.md, "The four causes"). -/
inductive TimerEvent where
  | fade
  | keepalive (p : Port)
  | hold (p : Port)
  | loss
  | frame
  deriving DecidableEq, Repr

/-- The command row an expiry is. -/
def TimerEvent.command : TimerEvent → Instr
  | .fade => .fadeStep
  | .keepalive p => .lapse p
  | .hold p => .holdTimerExpiry p
  | .loss => .lossTimerExpiry
  | .frame => .frameStart

/-- An expiry is taken as its row is. -/
def TimerEvent.take (e : TimerEvent) (s : State) : State :=
  match e with
  | .fade => fadeStep s
  | .keepalive p => lapseEvent p s
  | .hold p => holdEvent p s
  | .loss => lossEvent s
  | .frame => frameEvent s

/-- One core clock of the frame timer: the unit's clocks, then the frame position (R140). The flag says that unit 4095 has
ended: the next frame starts. -/
def advanceFrame (g : OutputGenerator) : OutputGenerator × Bool :=
  if g.unitClocks + 1 < g.prescaleApplied then ({ g with unitClocks := g.unitClocks + 1 }, false)
  else if g.position + 1 < Config.frameUnits then ({ g with unitClocks := 0, position := g.position + 1 }, false)
  else ({ g with unitClocks := 0, position := 0 }, true)

/-- One tick of a keepalive: the remaining falls by 1 while the timer runs (R70). -/
def tickKeepalive (rec : SourceRecord) : SourceRecord :=
  if keepaliveRuns rec then { rec with keepaliveRemaining := rec.keepaliveRemaining - 1 } else rec

/-- The tick brings the keepalive to 0 (R70). -/
def keepaliveDue (rec : SourceRecord) : Bool := keepaliveRuns rec && decide (rec.keepaliveRemaining ≤ 1)

/-- One tick of a hold timer (R148). -/
def tickHold (h : Hold) : Hold := { h with timer := h.timer.map (· - 1) }

/-- The tick brings the hold timer to 0 (R148). -/
def holdDue (h : Hold) : Bool := h.timer.any fun k => decide (k ≤ 1)

/-- One tick of the loss timer, which runs in LIVE (R129). -/
def tickLoss (x : StreamReceiver) : StreamReceiver :=
  if x.record.state = .live then { x with lossRemaining := x.lossRemaining - 1 } else x

/-- The tick brings the loss timer to 0 (R129). -/
def lossDue (x : StreamReceiver) : Bool := decide (x.record.state = .live) && decide (x.lossRemaining ≤ 1)

/-- The tick is the one the step timer's pending expiry falls at (R46, R47). -/
def fadeDue (e : FadeEngine) : Bool := e.timer.any fun k => decide (k ≤ 1)

/-- One tick of the 1 ms time base: every running timer that counts on it is lowered by 1. -/
def tickTimers (s : State) : State :=
  { s with
    tickClocks := 0
    sessions := s.sessions.map tickKeepalive
    output := { s.output with holds := s.output.holds.map tickHold }
    stream := tickLoss s.stream
    fades := { s.fades with timer := s.fades.timer.map (· - 1) } }

/-- The expiries that fall at a tick of the time base, from the timers as they stand before it. -/
def dueAtTick (s : State) : List TimerEvent :=
  (if fadeDue s.fades then [.fade] else []) ++
  (allPorts.filter fun p => keepaliveDue (s.sessions.get p)).map .keepalive ++
  (allPorts.filter fun p => holdDue (s.output.holds.get p)).map .hold ++
  (if lossDue s.stream then [.loss] else [])

/-! ### The order of events that fall together -/

/-- An order of the events: the manual says of each pair that either may be taken first (notes/assumptions/5.md). A single
event needs no choice. The first argument bounds the recursion: it is the number of events. -/
def inFreeOrder : Nat → Nat → List TimerEvent → List TimerEvent
  | 0, _, _ => []
  | _ + 1, _, [] => []
  | _ + 1, _, [e] => [e]
  | k + 1, n, e :: es =>
    let i := Config.freeOrder n % (e :: es).length
    ((e :: es)[i]?).toList ++ inFreeOrder k (n + 1) ((e :: es).eraseIdx i)

/-- Take the events that fall due at one core clock, one after the other. -/
def takeDue (due : List TimerEvent) (s : State) : State :=
  (inFreeOrder due.length s.freeCount due).foldl (fun t e => e.take t)
    { s with freeCount := s.freeCount + (due.length - 1) }

/-- One core clock: the frame timer advances, and at every 32000th clock the 1 ms time base ticks. What falls due is taken. -/
def coreClock (s : State) : State :=
  let f := advanceFrame s.output
  let frame : List TimerEvent := if f.2 then [.frame] else []
  let t := { s with output := f.1 }
  if s.tickClocks + 1 < Config.clocksPerTick then takeDue frame { t with tickClocks := s.tickClocks + 1 }
  else takeDue (dueAtTick t ++ frame) (tickTimers t)

/-- The idle step. While a reset lasts nothing runs (R183). With a request in execution, its end comes now or later
(notes/assumptions/4.md); otherwise one core clock passes. -/
def idleStep (s : State) : Outcome State Fault Refusal :=
  if resetLasts s then .next s
  else
    match inExecution s with
    | none => .next (coreClock s)
    | some (_, r) =>
      let t := { s with freeCount := s.freeCount + 1 }
      if Config.executionEnds s.freeCount then exec (commandOfRequest r) t else .next (coreClock t)

end Sys2Proof.Machine
end

