-- ==== Sys2Proof/Machine/Step.lean ====
section
/-! DEFINITION. One step: the command at the front of the queue, or, with none waiting, the idle step. -/

namespace Sys2Proof.Machine
open Sys2Proof Host

/-- Take the command at the front of the queue and execute it on the state with the queue's rest (notes/assumptions/1.md). -/
def step (s : State) : Outcome State Fault Refusal :=
  match s.pending with
  | c :: rest => exec c { s with pending := rest }
  | [] => idleStep s

/-- The state with the command a word spells put at the front of the queue; no word spells one, so the state as it is. -/
def State.withFetchWord (s : State) (nbits w : Nat) : State :=
  match decodeTableWord nbits w with
  | some c => { s with pending := c :: s.pending }
  | none => s

end Sys2Proof.Machine
end

