-- ==== Sys2Proof/Safety.lean ====
section
/-! DEFINITION. The predicates that claims about the part are stated in: what the executor has in hand, what an answer leaves, how
notices are placed, what a Claim Store change leaves, and the invariants that the rules lay down. -/

namespace Sys2Proof.Machine
open Sys2Proof Host

/-! ### Requests in execution and their answers -/

/-- The request `r` of port `p` is in execution, and no reset lasts (R167, R183). -/
abbrev Executing (p : Port) (r : Request) (s : State) : Prop :=
  s.resetState.lasting = none ∧ s.executor.current = some p ∧ (s.ports.get p).requests.head? = some r

/-- A request of kind `k` is in execution and passes checks 1 to 4 (R169). -/
abbrev Admitted (k : Kind) (p : Port) (r : Request) (s : State) : Prop :=
  Executing p r s ∧ r.kind = k.code ∧ lengthFits k r = true ∧ rightHeld k (s.sessions.get p).rights = true ∧
    sessionRefusal k (s.sessions.get p).state = none

/-- The port the executor's search from `last` finds first, if any is eligible (R167). -/
def choiceFrom (last : Port) (t : State) : Option Port := (searchOrder last).find? (eligible t)

/-- The executor has made its choice after `last` was served: the first eligible port of the search is current and last
served, or there is none and the executor waits (R167). -/
def NextChoice (last : Port) (t : State) : Prop :=
  match choiceFrom last t with
  | some q => t.executor = { lastServed := q, current := some q }
  | none => t.executor = { lastServed := last, current := none }

/-- The end of the execution of `r`: one response at the tail of the port's response queue, the request gone from the head of
its request queue, the other ports' two queues and every link and outcome as they were, and the next choice made (R167, R168). -/
structure Answered (p : Port) (r : Request) (st : Status) (body : List Byte) (s t : State) : Prop where
  request : (t.ports.get p).requests = (s.ports.get p).requests.tail
  response : (t.ports.get p).responses =
    (s.ports.get p).responses ++ [{ kind := r.kind, tag := r.tag, status := st, body := body }]
  otherPorts : ∀ q, q ≠ p →
    (t.ports.get q).requests = (s.ports.get q).requests ∧ (t.ports.get q).responses = (s.ports.get q).responses
  links : ∀ q, (t.ports.get q).link = (s.ports.get q).link ∧ (t.ports.get q).outcome = (s.ports.get q).outcome
  choice : NextChoice s.executor.lastServed t

/-- The command is the execution of `r`, and it ends with this status and body, leaving `t`. -/
def Completes (c : Instr) (p : Port) (r : Request) (st : Status) (body : List Byte) (s t : State) : Prop :=
  exec c s = .next t ∧ Answered p r st body s t

/-- No port has received a notice or lost one. -/
def NoNotice (s t : State) : Prop :=
  ∀ q, (t.ports.get q).notices = (s.ports.get q).notices ∧ (t.ports.get q).lost = (s.ports.get q).lost

/-- The request is answered with this status and body, and nothing else changes (R169, R174). -/
def OnlyAnswered (st : Status) (body : List Byte) (c : Instr) (p : Port) (r : Request) (s : State) : Prop :=
  ∃ t, Completes c p r st body s t ∧ NoNotice s t ∧ t = { s with ports := t.ports, executor := t.executor }

/-- The request is refused with a status and nothing else changes: an answer with an empty body (R169). -/
def RefusedWith (st : Status) (c : Instr) (p : Port) (r : Request) (s : State) : Prop := OnlyAnswered st [] c p r s

/-! ### Links -/

/-- The row of the table that a transaction is. -/
def transactionRow (tr : Transaction) (p : Port) (act : LinkAct) : Instr :=
  match tr with
  | .submit => .submit p act
  | .collect => .collect p act
  | .collectNotice => .collectNotice p act
  | .status => .status p act
  | .unrecognised _ => .unrecognisedTransaction p act

/-- Bytes as the bits that move on a link, most significant first (R154). -/
def bitsOfBytes (bs : List Byte) : List Bool := bs.flatMap bitsOfByte

/-- A transaction runs and no partial byte stands on the link (R154). -/
abbrev AtByteBoundary (l : Link) : Prop := l.selected = true ∧ l.inBits = [] ∧ l.outBits = []

/-- The link after the deassertion: select high, the partial byte discarded (R154). -/
abbrev LinkEnded (l l' : Link) : Prop := l' = { l with selected := false, inBits := [], outBits := [] }

/-- The staged bytes of a SUBMIT fall short, or declare more than 200 (R158, case 1). -/
abbrev FallsShort (staging : List Byte) : Prop :=
  staging.length < 4 ∨ 200 < declaredLength staging ∨ staging.length < 4 + declaredLength staging

/-- All the bytes of the entry chosen at byte 0 have been shifted out complete, and no reset was met (R160, R161, R172). -/
def WholeEntryShifted (l : Link) : Prop :=
  ∃ bytes, l.head = some bytes ∧ l.voided = false ∧ 1 + bytes.length ≤ l.shifted.length

/-- Of every port, only its notice queue and its lost-notice count may have changed. -/
def OnlyNotices (s t : State) : Prop :=
  ∀ q, t.ports.get q = { s.ports.get q with notices := (t.ports.get q).notices, lost := (t.ports.get q).lost }

/-! ### Notices -/

/-- The notices of a list that go to one port. -/
def noticesFor (q : Port) (ns : List Addressed) : List Notice := (ns.filter fun x => x.1 == q).map (·.2)

/-- The notices have been placed in their order: each queue keeps its 16 oldest, and each notice that found 16 is counted lost,
saturating at 255 (R165). -/
def Placed (ns : List Addressed) (s t : State) : Prop :=
  ∀ q, (t.ports.get q).notices = ((s.ports.get q).notices ++ noticesFor q ns).take 16 ∧
    (t.ports.get q).lost =
      min 255 ((s.ports.get q).lost + ((s.ports.get q).notices.length + (noticesFor q ns).length - 16))

/-- One notice for every port that, in state `t`, holds the class in its subscriptions and holds OBSERVE (R76). -/
def subscribersGet (c : NoticeClass) (n : Notice) (t : State) : List Addressed :=
  (allPorts.filter fun q => subscribes c (t.sessions.get q).subscriptions && (t.sessions.get q).rights.observe).map
    fun q => (q, n)

/-- The SOURCE_STATE notice of a port's source, by its state and claim count in `t` (R75, R190). -/
def sourceStateOf (p : Port) (tag : Byte) (t : State) : Notice :=
  { kind := .sourceState, subject := portCode p, item := 0xFF, tag := tag,
    value := (t.sessions.get p).state.code.setWidth 16,
    extra := BitVec.ofNat 16 (countClaims t.store.lists (sourceOf p)) }

/-! ### Claims and lists -/

/-- The source's claim on a channel. -/
def claimOn (s : State) (src : Source) (h : Chan) : Option Claim := findClaim src (s.store.lists.get h)

/-- The claims of the other sources on a channel are as they were, in the same order. -/
def OthersKept (src : Source) (s t : State) (h : Chan) : Prop :=
  removeClaim src (t.store.lists.get h) = removeClaim src (s.store.lists.get h)

/-- No claim of the channel has changed its place: the sources stand as they stood. -/
def PlacesKept (s t : State) (h : Chan) : Prop :=
  (t.store.lists.get h).map (·.source) = (s.store.lists.get h).map (·.source)

/-- The source's claim stands at the front of its tier: behind the claims of higher priority, before every other (R4, R5). -/
def AtFrontOfTier (prio : Source → Fin 8) (src : Source) (l : List Claim) : Prop :=
  ∃ before c after, l = before ++ c :: after ∧ c.source = src ∧ (∀ d ∈ before, prio src < prio d.source) ∧
    ∀ d ∈ after, prio d.source ≤ prio src

/-- The channel's list has not changed in claims, order and levels, so the channel is not handed on (R10). -/
def ListSame (s t : State) (h : Chan) : Prop := listKey (s.store.lists.get h) = listKey (t.store.lists.get h)

/-- The claim is FADING or RELEASING toward its target from `start`, at its beginning (R43). -/
def FadeBegins (c : Claim) (f : FadeRecord) (start : Level) (steps : Nat) (tag : Byte) : Prop :=
  f = { start := start, duration := steps, elapsed := 0, tag := tag } ∧ c.level = start

/-- What a write leaves of the source's claim on a channel (R11): `old` is the claim it found there. -/
def Written (v : Level) (o : FadeOrder) (watch : Bool) (src : Source) (old : Option Claim) (new : Claim) : Prop :=
  new.source = src ∧ new.target = v ∧ new.notify = o.notify ∧ new.watch = watch ∧
  if o.steps = 0 then new.state = .steady ∧ new.level = v
  else ∃ f, new.state = .fading f ∧ FadeBegins new f ((old.map (·.level)).getD 0) o.steps o.tag

/-- What a release leaves of a claim (R17): nothing with fade 0, else a release from its present level toward `snap`. -/
def Released (snap : Level) (o : FadeOrder) (old : Claim) (new : Option Claim) : Prop :=
  if o.steps = 0 then new = none
  else ∃ c f, new = some c ∧ c.source = old.source ∧ c.state = .releasing f ∧ FadeBegins c f old.level o.steps o.tag ∧
    c.target = snap ∧ c.notify = o.notify ∧ c.watch = old.watch

/-- The release snapshot of a source's claim on a channel of a state (R35). -/
def snapshotOn (s : State) (src : Source) (h : Chan) : Level :=
  snapshot (s.resolver.config.get h) (priorityOf s) src (s.store.lists.get h)

/-- What a release by a source leaves on one channel it reaches: a channel without a claim of the source is passed over, the
other sources' claims are not touched, and no claim is placed (R17). -/
def ReleasedAt (src : Source) (o : FadeOrder) (s t : State) (h : Chan) : Prop :=
  OthersKept src s t h ∧
  match claimOn s src h with
  | none => t.store.lists.get h = s.store.lists.get h
  | some old => Released (snapshotOn s src h) o old (claimOn t src h) ∧ (o.steps ≠ 0 → PlacesKept s t h)

/-- What a release by a source leaves on the channels named, and elsewhere (R17, R19). -/
def ReleasedOn (src : Source) (o : FadeOrder) (on : Chan → Bool) (s t : State) : Prop :=
  ∀ h, if on h then ReleasedAt src o s t h else t.store.lists.get h = s.store.lists.get h

/-- What a write by a source leaves on one channel (R11): its claim set and at the front of its tier, the others as they were. -/
def WrittenOn (src : Source) (v : Level) (o : FadeOrder) (watch : Bool) (s t : State) (h : Chan) : Prop :=
  OthersKept src s t h ∧ AtFrontOfTier (priorityOf t) src (t.store.lists.get h) ∧
    ∃ c, claimOn t src h = some c ∧ Written v o watch src (claimOn s src h) c

/-- The Level Resolver after a Claim Store change: each channel handed on is recomputed from its list, its configuration and
the priorities as they then stand; every other record and all configuration is as it was (R10, R32). -/
structure Recomputed (s t : State) : Prop where
  config : t.resolver.config = s.resolver.config
  kept : ∀ h, ListSame s t h → t.resolver.resolved.get h = s.resolver.resolved.get h
  anew : ∀ h, ¬ ListSame s t h →
    t.resolver.resolved.get h = resolve (t.resolver.config.get h) (priorityOf t) (t.store.lists.get h)

/-- The lead notices a Claim Store change raises, in ascending channel order (R37 to R40). -/
def changeLeadNotices (s t : State) : List Addressed :=
  allChannels.flatMap fun h =>
    if listKey (s.store.lists.get h) = listKey (t.store.lists.get h) then []
    else leadNotices h (s.resolver.resolved.get h) (t.resolver.resolved.get h) (t.store.lists.get h)

/-- The step timer after a change: started with the step period if it was STOPPED and a claim is FADING or RELEASING, else
untouched (R46). -/
def TimerStarted (s t : State) : Prop :=
  t.fades = if s.fades.timer = none ∧ anyMoving t.store.lists = true then
    { s.fades with timer := some s.fades.period } else s.fades

/-- The pool after a change that leaves the window alone: the counts are those of the lists, and entries move between free and
the three ports' claims, and between reserved-unused and STR's claims (R6, R8, R18). -/
structure PoolMoved (s t : State) : Prop where
  counts : ∀ src, claimCount t src = countClaims t.store.lists src
  entries : t.store.free + cpClaims t.store.counts = s.store.free + cpClaims s.store.counts
  reserved : t.store.reservedUnused + t.store.counts.str = s.store.reservedUnused + s.store.counts.str

/-- A Claim Store change taken whole, seen from outside its lists (R9, R10). -/
structure ChangeTaken (s t : State) : Prop where
  resolver : Recomputed s t
  timer : TimerStarted s t
  pool : PoolMoved s t

/-! ### Invariants -/

/-- Queue lengths and lost-notice counts (R163, R165). -/
def QueuesBounded (s : State) : Prop :=
  ∀ p, (s.ports.get p).requests.length ≤ 8 ∧ (s.ports.get p).responses.length ≤ 8 ∧
    (s.ports.get p).notices.length ≤ 16 ∧ (s.ports.get p).lost ≤ 255

/-- The executor and the queues (R167, R168, R171, R172, R183): the request in execution stands at the head of its queue and
its response has room; the executor does not wait while a port is eligible; while a reset lasts nothing is in execution, no
request waits, and every transaction that runs is one the reset met. -/
structure ExecutorSound (s : State) : Prop where
  current : ∀ p, s.executor.current = some p → (s.ports.get p).requests ≠ [] ∧ (s.ports.get p).responses.length < 8
  waits : s.resetState.lasting = none → s.executor.current = none → ∀ p, eligible s p = false
  quiet : s.resetState.lasting ≠ none → s.executor.current = none ∧
    ∀ p, (s.ports.get p).requests = [] ∧ ((s.ports.get p).link.selected = true → (s.ports.get p).link.voided = true)

/-- At least one of the three control ports holds the CONFIG right (R78). -/
def ConfigHeld (s : State) : Prop := ∃ p, (s.sessions.get p).rights.config = true

/-- The pool of 192 entries, the claim counts, and the reservation (R6, R7, R8). -/
structure PoolSound (s : State) : Prop where
  counts : ∀ src, claimCount s src = countClaims s.store.lists src
  entries : cpClaims s.store.counts + s.store.free + s.store.counts.str + s.store.reservedUnused = 192
  reserved : s.store.counts.str + s.store.reservedUnused = s.stream.record.count
  window : ∀ h, holds .str (s.store.lists.get h) = true → inRun s.stream.record.first s.stream.record.count h = true
  fits : s.stream.record.first + s.stream.record.count ≤ 64

/-- Every list holds at most one claim of a source and is ordered by current priority, highest first (R3, R4). -/
def ListsOrdered (s : State) : Prop :=
  ∀ h, ((s.store.lists.get h).map (·.source)).Nodup ∧
    (s.store.lists.get h).Pairwise fun c d => priorityOf s d.source ≤ priorityOf s c.source

/-- `x` lies between `a` and `b`, inclusive. -/
def between (a b x : Level) : Prop := (a ≤ x ∧ x ≤ b) ∨ (b ≤ x ∧ x ≤ a)

/-- A fade record in its ranges, and the claim's level between its start and its target (R1, R43, R50). -/
def FadeSound (c : Claim) (f : FadeRecord) : Prop :=
  f.elapsed < f.duration ∧ f.duration ≤ 65535 ∧ between f.start c.target c.level ∧ (f.elapsed = 0 → c.level = f.start)

/-- A claim record as R1 and R2 give it. A STR claim has notify and watch no and is never FADING (R2, R60). -/
def ClaimSound (c : Claim) : Prop :=
  (match c.state with
    | .steady => c.level = c.target
    | .fading f => FadeSound c f ∧ c.source ≠ .str
    | .releasing f => FadeSound c f) ∧
  (c.source = .str → c.notify = false ∧ c.watch = false)

/-- Every claim is sound, and every stored fade lies in 0 to 65535 (R1, R63, R100, R127). -/
structure ClaimsSound (s : State) : Prop where
  claims : ∀ h, ∀ c ∈ s.store.lists.get h, ClaimSound c
  sessionFades : ∀ p, (s.sessions.get p).lossFade ≤ 65535
  streamFade : s.stream.record.lossFade ≤ 65535
  sceneFades : ∀ n : Fin 32, sceneFade (s.scenes.scenes.get n) ≤ 65535

/-- The sessions (R63, R64, R70, R149): a source that is not ATTACHED has its hold flag clear and its keepalive stopped; a
DETACHED source owns no claim; a DETACHING one owns at least one, and each is RELEASING; a hold timer runs under a set flag. -/
structure SessionsSound (s : State) : Prop where
  detached : ∀ p, (s.sessions.get p).state = .detached → countClaims s.store.lists (sourceOf p) = 0
  detaching : ∀ p, (s.sessions.get p).state = .detaching →
    0 < countClaims s.store.lists (sourceOf p) ∧
    ∀ h c, claimOn s (sourceOf p) h = some c → ∃ f, c.state = .releasing f
  holdNeedsAttached : ∀ p, (s.sessions.get p).state ≠ .attached → (s.output.holds.get p).flag = false
  keepalive : ∀ p, keepaliveRuns (s.sessions.get p) = false → (s.sessions.get p).keepaliveRemaining = 0
  holdTimer : ∀ p, (s.output.holds.get p).timer ≠ none → (s.output.holds.get p).flag = true

/-- The resolved records (R28, R29, R31): every level is at most its ceiling; leader none stands exactly with an empty list,
at the clamped park level; a leader is a claim of the list, at its clamped level; in LATEST mode it is the first. -/
structure ResolvedSound (s : State) : Prop where
  ceiling : ∀ h, (s.resolver.resolved.get h).level ≤ (s.resolver.config.get h).ceiling
  empty : ∀ h, s.store.lists.get h = [] → s.resolver.resolved.get h =
    { level := clamp (s.resolver.config.get h).ceiling (s.resolver.config.get h).park, leader := none }
  led : ∀ h, s.store.lists.get h ≠ [] → ∃ c ∈ s.store.lists.get h, s.resolver.resolved.get h =
    { level := clamp (s.resolver.config.get h).ceiling c.level, leader := some c.source }
  latest : ∀ h, (s.resolver.config.get h).mode = .latest →
    (s.resolver.resolved.get h).leader = (s.store.lists.get h).head?.map (·.source)

/-- The scene entries in use. -/
def sceneEntriesUsed (st : SceneStore) : Nat :=
  ((List.finRange 32).map fun n => (sceneEntriesOf (st.scenes.get n)).length).sum

/-- The pool of 512 scene entries, and every DEFINED scene with 1 to 64 entries in strictly ascending channel order (R101). -/
structure ScenesSound (s : State) : Prop where
  entries : sceneEntriesUsed s.scenes + s.scenes.free = 512
  sizes : ∀ n : Fin 32, sceneDefined (s.scenes.scenes.get n) = true →
    1 ≤ (sceneEntriesOf (s.scenes.scenes.get n)).length ∧ (sceneEntriesOf (s.scenes.scenes.get n)).length ≤ 64
  ascending : ∀ n : Fin 32, (sceneEntriesOf (s.scenes.scenes.get n)).Pairwise fun a b => a.1 < b.1

/-- A stream record in its ranges, OFF exactly when the count is 0 (R127, R133). -/
structure RecordSound (x : StreamRecord) : Prop where
  off : x.state = .off ↔ x.count = 0
  id : x.id ≠ 255
  first : x.first ≤ 63
  window : x.first + x.count ≤ 64
  base : x.slotBase ≤ 255
  slots : x.slotBase + x.count ≤ 256
  divisor : x.divisor ≤ 4095
  timeout : 50 ≤ x.lostTimeout ∧ x.lostTimeout ≤ 2000

/-- The receiver (R120, R121, R124, R129): MUTED with an empty buffer, or COLLECTING under a window with 1 to 131 words; the
loss timer stopped unless LIVE; an idle event owed only after a good word (R119, R135; across a reset
by choice, notes/assumptions/18.md); the counters in range. -/
structure StreamSound (s : State) : Prop where
  record : RecordSound s.stream.record
  muted : s.stream.receiver = .muted → s.stream.staging = []
  collecting : s.stream.receiver = .collecting →
    s.stream.record.count ≠ 0 ∧ 1 ≤ s.stream.staging.length ∧ s.stream.staging.length ≤ 131
  lossStopped : s.stream.record.state ≠ .live → s.stream.lossRemaining = 0
  idle : s.stream.idleArmed = true → s.stream.awaitsHigh = false
  counters : s.stream.counters.accepted ≤ 65535 ∧ s.stream.counters.framing ≤ 65535 ∧ s.stream.counters.noise ≤ 65535 ∧
    s.stream.counters.overlong ≤ 65535 ∧ s.stream.counters.short ≤ 65535 ∧ s.stream.counters.check ≤ 65535 ∧
    s.stream.counters.reconfigured ≤ 65535

/-- Frames and pulses of the output generator in the ranges of R139, R140 and R143. -/
structure OutputSound (s : State) : Prop where
  position : s.output.position < 4096
  unit : s.output.unitClocks < s.output.prescaleApplied
  applied : 1 ≤ s.output.prescaleApplied ∧ s.output.prescaleApplied ≤ 64
  held : 1 ≤ s.output.prescaleHeld ∧ s.output.prescaleHeld ≤ 64
  accumulators : ∀ h : Chan, s.output.accumulator.get h ≤ 15
  pulses : ∀ h : Chan, s.output.pulse.get h ≤ 4096 ∧ (s.output.appliedEnable.get h = false → s.output.pulse.get h = 0)

/-- A hold limit: 0 for unlimited, or 10 to 5000 ms (R139, R151). -/
def limitInRange (n : Nat) : Prop := n = 0 ∨ (10 ≤ n ∧ n ≤ 5000)

/-- The holds of the output generator in the ranges of R139: the two limits, and a timer stopped or at 1 to 5000 ms. -/
structure HoldsSound (s : State) : Prop where
  limit : limitInRange s.output.holdLimit
  started : ∀ p, limitInRange (s.output.holds.get p).startedLimit
  timer : ∀ p k, (s.output.holds.get p).timer = some k → 1 ≤ k ∧ k ≤ 5000

/-- The step timer (R45 to R47): the period is one of its four values, and a STOPPED timer means that no claim is FADING or
RELEASING. -/
structure FadeTimerSound (s : State) : Prop where
  period : s.fades.period ∈ [1, 2, 4, 8]
  stopped : s.fades.timer = none → anyMoving s.store.lists = false

end Sys2Proof.Machine
end

