-- ==== Sys2Proof/Certificates/Slice0/Obligations.lean ====
section
/-! DEFINITION. The statements for the provers: what each command leaves, family by family, and the laws that every step keeps. A
request row is stated for a request in execution: `Admitted` says that it passes checks 1 to 4. -/

open Sys2Proof Sys2Proof.Machine Host

/-! ### Steps -/

/-- A step takes the command at the front of the queue and is exec of it on the state with the queue's rest. (The queue of
commands is the model's choice, log 1: the spec tells what each event does and names no queue of events.) -/
def Obligations.StepTakesTheCommandInFront : Prop :=
  ∀ (c : Instr) (rest : List Instr) (s : State), step { s with pending := c :: rest } = exec c { s with pending := rest }

/-- Every command answers a next state and leaves the queue of commands alone; a step always answers a next state. (That a
command which cannot fall is not taken and leaves the state as it is, is the model's choice, log 2.) -/
def Obligations.EveryCommandAndEveryStepGoesOn : Prop :=
  (∀ (c : Instr) (s : State), ∃ t, exec c s = .next t ∧ t.pending = s.pending) ∧ ∀ s : State, ∃ t, step s = .next t

/-- The idle step (the model's choice, logs 3 to 5). With no command waiting: nothing happens while a reset lasts (R183).
Else one core clock passes, or, with a request in execution, that execution may end instead. At a core clock the unit, the
frame position and the tick count go on (R140); at the end of unit 4095 a frame starts; at every 32000th clock each running
timer falls by 1, and the expiries that fall there are taken, with the frame start, in some order. -/
def Obligations.IdleStepIsACoreClock : Prop :=
  (∀ s, s.pending = [] → s.resetState.lasting ≠ none → step s = .next s) ∧
  (∀ s, s.pending = [] → s.resetState.lasting = none → inExecution s = none → step s = .next (coreClock s)) ∧
  (∀ s p r, s.pending = [] → Executing p r s → ∃ n,
    step s = exec (commandOfRequest r) { s with freeCount := n } ∨ step s = .next (coreClock { s with freeCount := n })) ∧
  (∀ s, OutputSound s → s.tickClocks + 1 < 32000 → s.output.unitClocks + 1 < s.output.prescaleApplied →
    coreClock s = { s with tickClocks := s.tickClocks + 1, output := { s.output with unitClocks := s.output.unitClocks + 1 } }) ∧
  (∀ s, OutputSound s → s.tickClocks + 1 < 32000 → s.output.unitClocks + 1 = s.output.prescaleApplied →
    s.output.position ≠ 4095 →
    coreClock s = { s with
      tickClocks := s.tickClocks + 1
      output := { s.output with unitClocks := 0, position := s.output.position + 1 } }) ∧
  (∀ s, OutputSound s → s.tickClocks + 1 < 32000 → s.output.unitClocks + 1 = s.output.prescaleApplied →
    s.output.position = 4095 →
    exec .frameStart { s with
      tickClocks := s.tickClocks + 1
      output := { s.output with unitClocks := 0, position := 0 } } = .next (coreClock s)) ∧
  ∀ s, 32000 ≤ s.tickClocks + 1 → ∃ (order : List TimerEvent) (n : Nat) (u : State),
    order.Perm (dueAtTick s ++ if (advanceFrame s.output).2 then [.frame] else []) ∧
    u = { s with
      tickClocks := 0
      freeCount := n
      sessions := s.sessions.map fun x =>
        if x.state = .attached ∧ x.keepalivePeriod ≠ 0 then { x with keepaliveRemaining := x.keepaliveRemaining - 1 } else x
      stream := if s.stream.record.state = .live then
          { s.stream with lossRemaining := s.stream.lossRemaining - 1 } else s.stream
      fades := { s.fades with timer := s.fades.timer.map (· - 1) }
      output :=
        { (advanceFrame s.output).1 with
          holds := s.output.holds.map fun x => { x with timer := x.timer.map (· - 1) } } } ∧
    coreClock s = order.foldl (fun t e => e.take t) u

/-- Which expiries fall at a tick of the time base: those of the running timers that the tick brings to 0 (R46, R70, R129,
R148). Each is taken as its command row is. (That a tick comes in an idle step is the model's choice, log 3.) -/
def Obligations.ExpiriesFallWhenATimerReachesZero : Prop :=
  (∀ (e : TimerEvent) (s : State), exec e.command s = .next (e.take s)) ∧
  ∀ (e : TimerEvent) (s : State), e ∈ dueAtTick s ↔
    match e with
    | .fade => ∃ k, s.fades.timer = some k ∧ k ≤ 1
    | .keepalive p => (s.sessions.get p).state = .attached ∧ (s.sessions.get p).keepalivePeriod ≠ 0 ∧
        (s.sessions.get p).keepaliveRemaining ≤ 1
    | .hold p => ∃ k, (s.output.holds.get p).timer = some k ∧ k ≤ 1
    | .loss => s.stream.record.state = .live ∧ s.stream.lossRemaining ≤ 1
    | .frame => False

/-! ### Links -/

/-- SELECT_ASSERTION opens a transaction and forms the status byte from the port as it stands: bit 7 a notice waits, bit 6 a
response waits, bits 5 and 4 the last-submit outcome, bits 3 to 0 the free request slots (R154 to R156, R187); its first bit
is on SDO. While a reset lasts the status byte is 0x00 (R172). A select that is low already cannot fall. While select is
high the part ignores the clock and SDI and leaves SDO undriven (R154). (That a fall which cannot happen, or a clock that is
ignored, leaves the state as it is, is log 2.) -/
def Obligations.SelectAssertionFormsTheStatusByte : Prop :=
  ∀ (p : Port) (s : State),
    ((s.ports.get p).link.selected = true → exec (.selectAssertion p) s = .next s) ∧
    ((s.ports.get p).link.selected = false → (s.ports.get p).requests.length ≤ 8 → ∃ l : Link,
      exec (.selectAssertion p) s = .next { s with ports := s.ports.set p { s.ports.get p with link := l } } ∧
      AtByteBoundary l ∧ l.transaction = none ∧ l.staging = [] ∧ l.head = none ∧ l.shifted = [] ∧
      sdoPin { s with ports := s.ports.set p { s.ports.get p with link := l } } p = some (l.status.getLsbD 7) ∧
      if s.resetState.lasting = none then
        l.voided = false ∧ l.status.toNat =
          128 * (!(s.ports.get p).notices.isEmpty).toNat + 64 * (!(s.ports.get p).responses.isEmpty).toNat +
          16 * (s.ports.get p).outcome.code.toNat + (8 - (s.ports.get p).requests.length)
      else l.voided = true ∧ l.status = 0) ∧
    ((s.ports.get p).link.selected = false → sdoPin s p = none ∧
      ∀ (tr : Transaction) (act : LinkAct), exec (transactionRow tr p act) s = .next s)

/-- Byte 0 is an exchange: the status byte goes out while the code comes in, and at its completion the code is recognised and
the entry to shift out is chosen, the head of the queue the transaction reads (R155, R160, R161, R187). From a reset on, 0x00
goes out (R172). -/
def Obligations.FirstByteIsAnExchange : Prop :=
  ∀ (tr : Transaction) (code : Byte) (p : Port) (s : State),
    (match tr with
      | .submit => code = 0x6C
      | .collect => code = 0x93
      | .collectNotice => code = 0x95
      | .status => code = 0xC1
      | .unrecognised x => code = x ∧ x ≠ 0x6C ∧ x ≠ 0x93 ∧ x ≠ 0x95 ∧ x ≠ 0xC1) →
    AtByteBoundary (s.ports.get p).link → (s.ports.get p).link.transaction = none → (s.ports.get p).link.shifted = [] →
    exec (transactionRow tr p (.clock (bitsOfByte code))) s =
      .next { s with
        ports := s.ports.set p { s.ports.get p with
          link := { (s.ports.get p).link with
            transaction := some tr
            shifted := [if (s.ports.get p).link.voided then 0 else (s.ports.get p).link.status]
            head := match tr with
              | .collect => (s.ports.get p).responses.head?.map responseBytes
              | .collectNotice => (s.ports.get p).notices.head?.map noticeBytes
              | .submit | .status | .unrecognised _ => none } } }

/-- A later byte: the bytes of the entry chosen go out in order, then 0x00, and 0x00 throughout where no entry was chosen or
a reset was met (R157, R160, R161, R172). A SUBMIT stages the four header bytes and the declared body, and no more (R157);
the bytes sent in another transaction are ignored. -/
def Obligations.LaterBytesShiftOutTheEntryChosen : Prop :=
  ∀ (tr : Transaction) (b : Byte) (n : Nat) (p : Port) (s : State),
    AtByteBoundary (s.ports.get p).link → (s.ports.get p).link.transaction = some tr →
    (s.ports.get p).link.shifted.length = n + 1 →
    exec (transactionRow tr p (.clock (bitsOfByte b))) s =
      .next { s with
        ports := s.ports.set p { s.ports.get p with
          link := { (s.ports.get p).link with
            shifted := (s.ports.get p).link.shifted ++
              [if (s.ports.get p).link.voided then 0 else ((s.ports.get p).link.head.getD []).getD n 0]
            staging :=
              let l := (s.ports.get p).link.staging
              if tr = .submit ∧ (l.length < 4 ∨ (declaredLength l ≤ 200 ∧ l.length < 4 + declaredLength l)) then l ++ [b]
              else l } } }

/-- The deassertion of a SUBMIT decides its outcome (R158, R172): DISCARDED if it fell short or met a reset, else
REFUSED_FULL if 8 requests wait, else ACCEPTED. Accepted, the request stands at the tail of the queue as it was sent, a
running keepalive restarts (R70), and an executor that waits makes its choice (R167). Nothing else changes. -/
def Obligations.SubmitDeassertionDecidesTheOutcome : Prop :=
  ∀ (p : Port) (s : State) (pi : PortInterface) (l : Link),
    pi = s.ports.get p → pi.link.selected = true → pi.link.transaction = some .submit → LinkEnded pi.link l →
    (pi.link.voided = true ∨ FallsShort pi.link.staging →
      exec (.submit p .deassert) s =
        .next { s with ports := s.ports.set p { pi with link := l, outcome := .discarded } }) ∧
    (pi.link.voided = false → ¬ FallsShort pi.link.staging → 8 ≤ pi.requests.length →
      exec (.submit p .deassert) s =
        .next { s with ports := s.ports.set p { pi with link := l, outcome := .refusedFull } }) ∧
    (pi.link.voided = false → ¬ FallsShort pi.link.staging → pi.requests.length < 8 → s.resetState.lasting = none →
      ∃ t, exec (.submit p .deassert) s = .next t ∧
        t = { s with
          executor := t.executor
          ports := s.ports.set p { pi with
            link := l
            outcome := .accepted
            requests := pi.requests ++
              [{ kind := pi.link.staging.getD 0 0
                 tag := pi.link.staging.getD 1 0
                 length := declaredLength pi.link.staging
                 body := (pi.link.staging.drop 4).take (declaredLength pi.link.staging) }] }
          sessions := s.sessions.set p
            (if keepaliveRuns (s.sessions.get p) = true then
              { s.sessions.get p with keepaliveRemaining := (s.sessions.get p).keepalivePeriod * 10 }
            else s.sessions.get p) } ∧
        if s.executor.current = none then NextChoice s.executor.lastServed t else t.executor = s.executor)

/-- The last-submit outcome (R159): the deassertion of a SUBMIT writes the port's outcome and leaves the other ports'; no
other command writes one but a reset, after which all are NONE. (That NONE stands from the beginning of a reset is the
model's choice, log 16.) -/
def Obligations.OnlyASubmitWritesTheOutcome : Prop :=
  (∀ (p : Port) (s t : State), (s.ports.get p).link.selected = true → (s.ports.get p).link.transaction = some .submit →
    exec (.submit p .deassert) s = .next t →
    (∀ q, q ≠ p → (t.ports.get q).outcome = (s.ports.get q).outcome) ∧
    (t.ports.get p).outcome =
      if (s.ports.get p).link.voided = true ∨ FallsShort (s.ports.get p).link.staging then .discarded
      else if 8 ≤ (s.ports.get p).requests.length then .refusedFull else .accepted) ∧
  (∀ (c : Instr) (s t : State), (∀ p, c ≠ .submit p .deassert) → c ≠ .por → c ≠ .rst → c ≠ .restart →
    exec c s = .next t → ∀ q, (t.ports.get q).outcome = (s.ports.get q).outcome) ∧
  (∀ s t, exec .por s = .next t → ∀ q, (t.ports.get q).outcome = .none) ∧
  (∀ s t, s.resetState.lasting = none → exec .rst s = .next t → ∀ q, (t.ports.get q).outcome = .none) ∧
  ∀ p r s t, Admitted .restart p r s → exec .restart s = .next t → ∀ q, (t.ports.get q).outcome = .none

/-- The deassertion of the other transactions (R154, R155, R160, R161, R172). A COLLECT or COLLECT_NOTICE that shifted its
whole entry out removes it from the head of its queue, and a removed response lets a waiting executor choose (R167); one that
did not removes nothing. STATUS and every other code change nothing but the link, whose partial byte is discarded. -/
def Obligations.DeassertionRemovesAWholeEntry : Prop :=
  ∀ (p : Port) (s : State) (pi : PortInterface) (l : Link), pi = s.ports.get p → pi.link.selected = true → LinkEnded pi.link l →
    (pi.link.transaction = some .collect → WholeEntryShifted pi.link → s.resetState.lasting = none →
      ∃ t, exec (.collect p .deassert) s = .next t ∧
        t = { s with
          executor := t.executor
          ports := s.ports.set p { pi with link := l, responses := pi.responses.tail } } ∧
        if s.executor.current = none then NextChoice s.executor.lastServed t else t.executor = s.executor) ∧
    (pi.link.transaction = some .collectNotice → WholeEntryShifted pi.link →
      exec (.collectNotice p .deassert) s =
        .next { s with ports := s.ports.set p { pi with link := l, notices := pi.notices.tail } }) ∧
    ∀ tr, (match tr with
        | .submit => False
        | .collect => pi.link.transaction = some .collect ∧ ¬ WholeEntryShifted pi.link
        | .collectNotice => pi.link.transaction = some .collectNotice ∧ ¬ WholeEntryShifted pi.link
        | .status => pi.link.transaction = some .status
        | .unrecognised _ => pi.link.transaction = some tr ∨ pi.link.transaction = none) →
      exec (transactionRow tr p .deassert) s = .next { s with ports := s.ports.set p { pi with link := l } }

/-- A whole SUBMIT, from the fall of select to its rise, delivers the request byte for byte: kind, tag, declared length and
body stand at the tail of the port's request queue, with outcome ACCEPTED (R154 to R159, R185, R188). (The queue that brings
the three commands is the model's choice, log 1.) -/
def Obligations.SubmitTransactionDeliversTheRequest : Prop :=
  ∀ (p : Port) (s : State) (kind tag : Byte) (body : List Byte) (rest : List Instr),
    (s.ports.get p).link.selected = false → s.resetState.lasting = none → (s.ports.get p).requests.length < 8 →
    body.length ≤ 200 →
    ∃ t, core.run 3 { s with
        pending :=
          .selectAssertion p ::
          .submit p (.clock (bitsOfBytes ([0x6C, kind, tag] ++ bytesOf body.length ++ body))) ::
          .submit p .deassert :: rest } = .next t ∧
      t.pending = rest ∧ (t.ports.get p).link.selected = false ∧ (t.ports.get p).outcome = .accepted ∧
      (t.ports.get p).requests = (s.ports.get p).requests ++ [{ kind := kind, tag := tag, length := body.length, body := body }] ∧
      ∀ q, q ≠ p → t.ports.get q = s.ports.get q

/-- A whole COLLECT of the port's oldest response shifts out the status byte, the response's header and body byte for byte,
then 0x00, and removes that response alone (R155, R160, R164, R185, R188). (The queue that brings the three commands is the
model's choice, log 1.) -/
def Obligations.CollectTransactionDeliversTheResponse : Prop :=
  ∀ (p : Port) (s : State) (x : Response) (rs : List Response) (filler : List Byte) (rest : List Instr),
    (s.ports.get p).link.selected = false → s.resetState.lasting = none → (s.ports.get p).requests.length ≤ 8 →
    (s.ports.get p).responses = x :: rs → 5 + x.body.length ≤ filler.length →
    ∃ t, core.run 3 { s with
        pending :=
          .selectAssertion p :: .collect p (.clock (bitsOfBytes (0x93 :: filler))) :: .collect p .deassert :: rest } =
        .next t ∧
      t.pending = rest ∧ (t.ports.get p).link.selected = false ∧ (t.ports.get p).responses = rs ∧
      (t.ports.get p).link.shifted =
        statusByte (s.ports.get p) :: ([x.kind, x.tag, x.status.code] ++ bytesOf x.body.length ++ x.body ++
          List.replicate (filler.length - (5 + x.body.length)) 0) ∧
      (t.ports.get p).requests = (s.ports.get p).requests ∧ (t.ports.get p).notices = (s.ports.get p).notices ∧
      ∀ q, q ≠ p → t.ports.get q = s.ports.get q

/-! ### The executor and its checks -/

/-- The three early checks, for every kind (R169, R170, R73, R77): a wrong declared length is refused MALFORMED; then a
missing right, DENIED; then a session state that bars the kind, with that state's status. A refusal has an empty body and
changes nothing. Which lengths fit, which right is needed and which states bar a kind are as the tables of R85, R104, R189,
R77 and R73 give. -/
def Obligations.EarlyChecksRefuseInOrder : Prop :=
  (∀ (k : Kind) (p : Port) (r : Request) (s : State), Executing p r s → r.kind = k.code →
    (lengthFits k r = false → RefusedWith .malformed (commandOfKind k) p r s) ∧
    (lengthFits k r = true → rightHeld k (s.sessions.get p).rights = false → RefusedWith .denied (commandOfKind k) p r s) ∧
    (lengthFits k r = true → rightHeld k (s.sessions.get p).rights = true →
      ∀ st, sessionRefusal k (s.sessions.get p).state = some st → RefusedWith st (commandOfKind k) p r s)) ∧
  (∀ (k : Kind) (n : Nat) (r : Request),
    (k, n) ∈ [(Kind.attach, 6), (.detach, 2), (.ping, 0), (.release, 5), (.releaseAll, 3), (.recall, 4), (.hold, 0), (.unhold, 0),
      (.eraseScene, 1), (.captureScene, 5), (.readScene, 1), (.readStatus, 0), (.readChannel, 1), (.readLevels, 3),
      (.readSource, 1), (.readStream, 1), (.configChannels, 10), (.configSource, 2), (.configStream, 12), (.configOutput, 4),
      (.grant, 2), (.restart, 0)] →
    (lengthFits k r = true ↔ r.length = n)) ∧
  (∀ r : Request,
    (lengthFits .setLevels r = true ↔
      5 ≤ r.length ∧ r.length = if (r.byte 4).getLsbD 2 = true then 7 else 5 + 2 * r.num 1) ∧
    (lengthFits .defineScene r = true ↔ 4 ≤ r.length ∧ r.length = 4 + 3 * r.num 3)) ∧
  (∀ (k : Kind) (x : Rights), rightHeld k x =
    if k ∈ [Kind.setLevels, .release, .releaseAll, .recall, .hold, .unhold] then x.claim
    else if k ∈ [Kind.readScene, .readChannel, .readLevels, .readSource, .readStream] then x.observe
    else if k ∈ [Kind.attach, .detach, .ping, .readStatus] then true else x.config) ∧
  ∀ (k : Kind) (st : SessionState), sessionRefusal k st =
    if k ∈ [Kind.setLevels, .release, .releaseAll, .recall, .hold, .unhold] then
      if st = .attached then none else if st = .lapsed then some .lapsed else some .notAttached
    else if k = .detach ∧ st = .detached then some .notAttached else none

/-- Check 1: a kind byte that is no code of the request kind table is refused UNKNOWN_KIND, whatever its body (R169, R170,
R188). -/
def Obligations.UnknownKindsAreRefused : Prop :=
  ∀ (p : Port) (r : Request) (s : State), Executing p r s →
    r.kind ∉ [0x01, 0x02, 0x03, 0x10, 0x11, 0x12, 0x13, 0x14, 0x15, 0x20, 0x21, 0x22, 0x23, 0x30, 0x31, 0x32, 0x33, 0x34, 0x40,
      0x41, 0x42, 0x43, 0x44, 0x4F] →
    commandOfRequest r = .unknownKind ∧ RefusedWith .unknownKind .unknownKind p r s

/-- The executor's search (R167): a port is eligible while it has a request waiting and room for a response; the choice is
the first eligible port after the one last served, in the order CP0, CP1, CP2 and round again; none is chosen only if none is
eligible. So a port that stays eligible is served within three choices, whatever becomes of the other ports' queues between
them: `t0`, `t1` and `t2` are the states at three choices in a row. -/
def Obligations.TheSearchPassesNoEligiblePortTwice : Prop :=
  (∀ (last p : Port) (t0 t1 t2 : State), eligible t0 p = true → eligible t1 p = true → eligible t2 p = true →
    ∃ q0, choiceFrom last t0 = some q0 ∧ eligible t0 q0 = true ∧
      (q0 = p ∨ ∃ q1, choiceFrom q0 t1 = some q1 ∧ eligible t1 q1 = true ∧ (q1 = p ∨ choiceFrom q1 t2 = some p))) ∧
  (∀ (p : Port) (t : State), eligible t p = true ↔
    (t.ports.get p).requests ≠ [] ∧ (t.ports.get p).responses.length < 8) ∧
  (∀ (last : Port) (t : State), choiceFrom last t = none ↔ ∀ p, eligible t p = false) ∧
  ∀ last : Port, searchOrder last = match last with
    | .cp0 => [.cp1, .cp2, .cp0]
    | .cp1 => [.cp2, .cp0, .cp1]
    | .cp2 => [.cp0, .cp1, .cp2]

/-- Check 5, for every kind that has one (R41, R65, R78, R79, R86, R91, R94, R105, R107, R108, R110, R112, R133, R136, R151,
R177, R179, R180): a field or flag out of its range is refused RANGE. A run is first and count, with first at most 63, count
1 to 64 and first + count at most 64; the last clause says that the other statements' runs are these. -/
def Obligations.FieldsOutOfRangeAreRefused : Prop :=
  ∀ (p : Port) (r : Request) (s : State),
    (Admitted .attach p r s → 6000 < r.num16 0 ∨ 1 < r.num 2 ∨ 7 < r.num 5 → RefusedWith .range .attach p r s) ∧
    (Admitted .setLevels p r s → 63 < r.num 0 ∨ r.num 1 = 0 ∨ 64 < r.num 1 ∨ 64 < r.num 0 + r.num 1 ∨ 7 < r.num 4 →
      RefusedWith .range .setLevels p r s) ∧
    (Admitted .release p r s → 63 < r.num 0 ∨ r.num 1 = 0 ∨ 64 < r.num 1 ∨ 64 < r.num 0 + r.num 1 ∨ 1 < r.num 4 →
      RefusedWith .range .release p r s) ∧
    (Admitted .releaseAll p r s → 1 < r.num 2 → RefusedWith .range .releaseAll p r s) ∧
    (Admitted .recall p r s → 31 < r.num 0 ∨ 15 < r.num 1 → RefusedWith .range .recall p r s) ∧
    (Admitted .defineScene p r s →
      31 < r.num 0 ∨ r.num 3 = 0 ∨ 64 < r.num 3 ∨
      (∃ i, i < r.num 3 ∧ (63 < r.num (4 + 3 * i) ∨ (1 ≤ i ∧ r.num (4 + 3 * i) ≤ r.num (4 + 3 * (i - 1))))) →
      RefusedWith .range .defineScene p r s) ∧
    (Admitted .eraseScene p r s → 31 < r.num 0 → RefusedWith .range .eraseScene p r s) ∧
    (Admitted .captureScene p r s →
      31 < r.num 0 ∨ 63 < r.num 1 ∨ r.num 2 = 0 ∨ 64 < r.num 2 ∨ 64 < r.num 1 + r.num 2 →
      RefusedWith .range .captureScene p r s) ∧
    (Admitted .readScene p r s → 31 < r.num 0 → RefusedWith .range .readScene p r s) ∧
    (Admitted .readChannel p r s → 63 < r.num 0 → RefusedWith .range .readChannel p r s) ∧
    (Admitted .readLevels p r s → 63 < r.num 0 ∨ r.num 1 = 0 ∨ 64 < r.num 1 ∨ 64 < r.num 0 + r.num 1 ∨ 1 < r.num 2 →
      RefusedWith .range .readLevels p r s) ∧
    (Admitted .readSource p r s → 3 < r.num 0 → RefusedWith .range .readSource p r s) ∧
    (Admitted .readStream p r s → 1 < r.num 0 → RefusedWith .range .readStream p r s) ∧
    (Admitted .configChannels p r s →
      63 < r.num 0 ∨ r.num 1 = 0 ∨ 64 < r.num 1 ∨ 64 < r.num 0 + r.num 1 ∨ 31 < r.num 2 ∨
      ((r.byte 2).getLsbD 0 = true ∧ 1 < r.num 3) ∨
      ((r.byte 2).getLsbD 1 = true ∧ 1 < r.num 4) ∨ ((r.byte 2).getLsbD 2 = true ∧ 1 < r.num 5) →
      RefusedWith .range .configChannels p r s) ∧
    (Admitted .configSource p r s → 3 < r.num 0 ∨ 7 < r.num 1 → RefusedWith .range .configSource p r s) ∧
    (Admitted .configStream p r s →
      r.num 0 = 255 ∨ 63 < r.num 2 ∨ 64 < r.num 3 ∨ 64 < r.num 2 + r.num 3 ∨ 256 < r.num 1 + r.num 3 ∨ 1 < r.num 4 ∨
      1 < r.num 5 ∨ 4095 < r.num16 6 ∨ r.num16 8 < 50 ∨ 2000 < r.num16 8 → RefusedWith .range .configStream p r s) ∧
    (Admitted .configOutput p r s →
      r.num 0 = 0 ∨ 64 < r.num 0 ∨ r.num 1 ∉ [1, 2, 4, 8] ∨ (1 ≤ r.num16 2 ∧ r.num16 2 ≤ 9) ∨ 5000 < r.num16 2 →
      RefusedWith .range .configOutput p r s) ∧
    (Admitted .grant p r s → 2 < r.num 0 ∨ 7 < r.num 1 → RefusedWith .range .grant p r s) ∧
    ∀ (first count : Nat),
      (runInRange first count = true ↔ first ≤ 63 ∧ 1 ≤ count ∧ count ≤ 64 ∧ first + count ≤ 64) ∧
      ∀ h : Chan, inRun first count h = true ↔ first ≤ h.val ∧ h.val < first + count

/-! ### Sessions -/

/-- ATTACH (R65, R66, R70, R75): the four fields are written, the state is ATTACHED and the keepalive starts with the new
period; claims, holds, priority and rights stay. SOURCE_STATE goes to the subscribers unless the source was ATTACHED. -/
def Obligations.AttachMakesTheSourcePresent : Prop :=
  ∀ (p : Port) (r : Request) (s : State) (policy : LossPolicy), Admitted .attach p r s → QueuesBounded s →
    r.num16 0 ≤ 6000 → r.byte 2 = policy.code → r.num 5 ≤ 7 →
    ∃ t, Completes .attach p r .ok
        [1, byteOf (s.sessions.get p).priority.val, rightsByte (s.sessions.get p).rights, byteOf (claimCount s (sourceOf p))]
        s t ∧
      t = { s with
        ports := t.ports
        executor := t.executor
        sessions := s.sessions.set p { s.sessions.get p with
          state := .attached
          keepalivePeriod := r.num16 0
          keepaliveRemaining := r.num16 0 * 10
          lossPolicy := policy
          lossFade := r.num16 3
          subscriptions := ⟨(r.byte 5).getLsbD 0, (r.byte 5).getLsbD 1, (r.byte 5).getLsbD 2⟩ } } ∧
      Placed (if (s.sessions.get p).state = .attached then []
        else subscribersGet .sources
          { sourceStateOf p r.tag t with extra := BitVec.ofNat 16 (claimCount s (sourceOf p)) } t) s t

/-- DETACH (R67, R19, R75, R149): every claim of the source is released with the fade, notify no and the request's tag; the
hold flag is cleared and its timer stopped; the keepalive stops; the state is DETACHED if no claim is left, else DETACHING.
The lead notices come before SOURCE_STATE, which is raised if the state changed. The response carries the claims released and
the state. -/
def Obligations.DetachReleasesAndLeaves : Prop :=
  ∀ (p : Port) (r : Request) (s : State), Admitted .detach p r s → QueuesBounded s → PoolSound s →
    ∃ t new, Completes .detach p r .ok [byteOf (countClaims s.store.lists (sourceOf p)), new.code] s t ∧
      new = (if countClaims t.store.lists (sourceOf p) = 0 then SessionState.detached else .detaching) ∧
      ReleasedOn (sourceOf p) { steps := r.num16 0, tag := r.tag, notify := false } everywhere s t ∧ ChangeTaken s t ∧
      t = { s with
        ports := t.ports
        executor := t.executor
        store := t.store
        resolver := t.resolver
        fades := t.fades
        sessions := s.sessions.set p { s.sessions.get p with state := new, keepaliveRemaining := 0 }
        output := { s.output with
          holds := s.output.holds.set p { s.output.holds.get p with flag := false, timer := none } } } ∧
      Placed (changeLeadNotices s t ++
        if (s.sessions.get p).state = new then [] else subscribersGet .sources (sourceStateOf p r.tag t) t) s t

/-- LAPSE: a running keepalive expires (R71, R75, R149). The state becomes LAPSED, the keepalive stops, the hold is cleared.
HOLD leaves the claims alone; RELEASE releases every one with the loss fade, notify no and tag 0. SOURCE_STATE follows the
lead notices, to the source's own port and to the subscribers. A stopped keepalive does not expire (R64). (The command is
then not taken, log 2.) -/
def Obligations.LapseActsByTheLossPolicy : Prop :=
  ∀ (p : Port) (s : State),
    (s.resetState.lasting ≠ none ∨ keepaliveRuns (s.sessions.get p) = false → exec (.lapse p) s = .next s) ∧
    (s.resetState.lasting = none → keepaliveRuns (s.sessions.get p) = true → QueuesBounded s → PoolSound s →
      ∃ t, exec (.lapse p) s = .next t ∧
        t = { s with
          ports := t.ports
          store := t.store
          resolver := t.resolver
          fades := t.fades
          sessions := s.sessions.set p { s.sessions.get p with state := .lapsed, keepaliveRemaining := 0 }
          output := { s.output with
            holds := s.output.holds.set p { s.output.holds.get p with flag := false, timer := none } } } ∧
        OnlyNotices s t ∧
        (match (s.sessions.get p).lossPolicy with
          | .hold => t.store = s.store ∧ t.resolver = s.resolver ∧ t.fades = s.fades
          | .release =>
            ReleasedOn (sourceOf p) { steps := (s.sessions.get p).lossFade, tag := 0, notify := false } everywhere s t ∧
              ChangeTaken s t) ∧
        Placed (changeLeadNotices s t ++
          (allPorts.filter fun q => q == p ||
            ((s.sessions.get q).subscriptions.sources && (s.sessions.get q).rights.observe)).map
              fun q => (q, sourceStateOf p 0 t)) s t)

/-- GRANT (R78): refused LAST_CONFIG, changing nothing, if it would leave no port with CONFIG; else the target's rights
become the new set, no notice is raised, and the response carries the new set and the number of ports holding CONFIG. -/
def Obligations.GrantKeepsAConfigHolder : Prop :=
  ∀ (p target : Port) (r : Request) (s : State), Admitted .grant p r s → r.byte 0 = portCode target → r.num 1 ≤ 7 →
    ((r.byte 1).getLsbD 0 = false → (∀ q, q ≠ target → (s.sessions.get q).rights.config = false) →
      RefusedWith .lastConfig .grant p r s) ∧
    ((r.byte 1).getLsbD 0 = true ∨ (∃ q, q ≠ target ∧ (s.sessions.get q).rights.config = true) →
      ∃ t, Completes .grant p r .ok
          [r.byte 1, byteOf (allPorts.countP fun q => (t.sessions.get q).rights.config)] s t ∧ NoNotice s t ∧
        t = { s with
          ports := t.ports
          executor := t.executor
          sessions := s.sessions.set target { s.sessions.get target with
            rights := ⟨(r.byte 1).getLsbD 0, (r.byte 1).getLsbD 1, (r.byte 1).getLsbD 2⟩ } })

/-- CONFIG_SOURCE (R21, R58, R79): the priority of any of the four sources is written, and each of its claims stands at the
front of the tier of that priority, unchanged in itself; the other claims keep their order. Channels whose order changed are
recomputed, with their lead notices. The response counts the claims re-sorted and the channels whose leader changed. (That a
channel whose order the re-sort leaves as it was keeps its record, in PEAK mode too, is the model's reading of R10, R21 and
R79 against R178, log 8.) -/
def Obligations.ConfigSourceResortsTheClaims : Prop :=
  ∀ (p : Port) (r : Request) (s : State) (src : Source) (n : Fin 8), Admitted .configSource p r s → QueuesBounded s →
    PoolSound s → ListsOrdered s → r.byte 0 = src.code → r.num 1 = n.val →
    ∃ t, Completes .configSource p r .ok
        [byteOf (countClaims s.store.lists src),
         byteOf (countChannels fun h => decide ((s.resolver.resolved.get h).leader ≠ (t.resolver.resolved.get h).leader))] s t ∧
      (∀ x, priorityOf t x = if x = src then n else priorityOf s x) ∧
      (∀ h, OthersKept src s t h ∧ claimOn t src h = claimOn s src h ∧
        (holds src (s.store.lists.get h) = true → AtFrontOfTier (priorityOf t) src (t.store.lists.get h))) ∧
      ChangeTaken s t ∧
      (∀ q, t.sessions.get q = { s.sessions.get q with priority := (t.sessions.get q).priority }) ∧
      t = { s with
        ports := t.ports
        executor := t.executor
        store := t.store
        resolver := t.resolver
        fades := t.fades
        sessions := t.sessions
        stream := { s.stream with record := { s.stream.record with priority := t.stream.record.priority } } } ∧
      Placed (changeLeadNotices s t) s t

/-! ### Claims -/

/-- SET_LEVELS (R11, R13, R14, R85 to R89). With more new claims than free entries it is refused NO_CLAIM_SPACE with needed
and free. Else each channel of the run is written with its level, the request's fade, tag, notify and watch, in front of its
tier; every other channel is as it was; each new claim takes one free entry; the response carries created, updated and free
after. -/
def Obligations.SetLevelsWritesTheRun : Prop :=
  ∀ (p : Port) (r : Request) (s : State) (run : Chan → Bool) (level : Chan → Level) (o : FadeOrder) (needed : Nat),
    Admitted .setLevels p r s → runInRange (r.num 0) (r.num 1) = true → r.num 4 ≤ 7 →
    run = inRun (r.num 0) (r.num 1) →
    (level = fun h => if (r.byte 4).getLsbD 2 = true then r.word 5 else r.word (5 + 2 * (h.val - r.num 0))) →
    o = { steps := r.num16 2, tag := r.tag, notify := (r.byte 4).getLsbD 0 } →
    (needed = countChannels fun h => run h && !holds (sourceOf p) (s.store.lists.get h)) →
    (s.store.free < needed →
      OnlyAnswered .noClaimSpace [byteOf needed, byteOf s.store.free] .setLevels p r s) ∧
    (needed ≤ s.store.free → QueuesBounded s → PoolSound s → ListsOrdered s →
      ∃ t, Completes .setLevels p r .ok [byteOf needed, byteOf (r.num 1 - needed), byteOf (s.store.free - needed)] s t ∧
        t.store.free = s.store.free - needed ∧
        (∀ h, if run h then WrittenOn (sourceOf p) (level h) o ((r.byte 4).getLsbD 1) s t h
          else t.store.lists.get h = s.store.lists.get h) ∧
        ChangeTaken s t ∧ Placed (changeLeadNotices s t) s t ∧
        t = { s with
          ports := t.ports
          executor := t.executor
          store := t.store
          resolver := t.resolver
          fades := t.fades })

/-- RELEASE over its run and RELEASE_ALL over every channel (R17, R19, R91 to R94): each claim of the source there is
released with the request's fade, tag and notify, and nothing else is touched; the response carries the claims released and
the free count after. -/
def Obligations.ReleasesReleaseTheirChannels : Prop :=
  ∀ (p : Port) (r : Request) (s : State) (c : Instr) (on : Chan → Bool) (o : FadeOrder) (released free : Nat),
    (Admitted .release p r s ∧ runInRange (r.num 0) (r.num 1) = true ∧ r.num 4 ≤ 1 ∧ c = .release ∧
        on = inRun (r.num 0) (r.num 1) ∧ o = { steps := r.num16 2, tag := r.tag, notify := (r.byte 4).getLsbD 0 }) ∨
      (Admitted .releaseAll p r s ∧ r.num 2 ≤ 1 ∧ c = .releaseAll ∧ on = everywhere ∧
        o = { steps := r.num16 0, tag := r.tag, notify := (r.byte 2).getLsbD 0 }) →
    QueuesBounded s → PoolSound s →
    (released = countChannels fun h => on h && holds (sourceOf p) (s.store.lists.get h)) →
    free = (if o.steps = 0 then s.store.free + released else s.store.free) →
    ∃ t, Completes c p r .ok [byteOf released, byteOf free] s t ∧ t.store.free = free ∧
      ReleasedOn (sourceOf p) o on s t ∧ ChangeTaken s t ∧ Placed (changeLeadNotices s t) s t ∧
      t = { s with
        ports := t.ports
        executor := t.executor
        store := t.store
        resolver := t.resolver
        fades := t.fades }

/-- RECALL (R112 to R116). An EMPTY scene is refused NO_SCENE; more new claims than free entries, NO_CLAIM_SPACE with needed
and free, and then nothing is released either. Else each channel the scene names is written with its entry's level and the
fade given or the default one; with exclusive the source's claims elsewhere are released with that fade; the response carries
created, updated, released and free after. -/
def Obligations.RecallWritesTheScene : Prop :=
  ∀ (p : Port) (r : Request) (s : State) (n : Fin 32), Admitted .recall p r s → r.num 0 = n.val → r.num 1 ≤ 15 →
    (s.scenes.scenes.get n = .empty → RefusedWith .noScene .recall p r s) ∧
    ∀ (fade : Nat) (es : List (Chan × Level)) (o : FadeOrder) (exclusive : Bool) (needed updated released free : Nat),
      s.scenes.scenes.get n = .defined fade es →
      o = { steps := if (r.byte 1).getLsbD 3 = true then r.num16 2 else fade, tag := r.tag, notify := (r.byte 1).getLsbD 0 } →
      exclusive = (r.byte 1).getLsbD 2 →
      (needed = countChannels fun h => (sceneLevel es h).isSome && !holds (sourceOf p) (s.store.lists.get h)) →
      (updated = countChannels fun h => (sceneLevel es h).isSome && holds (sourceOf p) (s.store.lists.get h)) →
      (released = countChannels fun h =>
        exclusive && !(sceneLevel es h).isSome && holds (sourceOf p) (s.store.lists.get h)) →
      free = s.store.free - needed + (if o.steps = 0 then released else 0) →
      (s.store.free < needed → OnlyAnswered .noClaimSpace [byteOf needed, byteOf s.store.free] .recall p r s) ∧
      (needed ≤ s.store.free → QueuesBounded s → PoolSound s → ListsOrdered s →
        ∃ t, Completes .recall p r .ok [byteOf needed, byteOf updated, byteOf released, byteOf free] s t ∧
          t.store.free = free ∧
          (∀ h, match sceneLevel es h with
            | some v => WrittenOn (sourceOf p) v o ((r.byte 1).getLsbD 1) s t h
            | none => if exclusive = true then ReleasedAt (sourceOf p) o s t h
              else t.store.lists.get h = s.store.lists.get h) ∧
          ChangeTaken s t ∧ Placed (changeLeadNotices s t) s t ∧
          t = { s with
            ports := t.ports
            executor := t.executor
            store := t.store
            resolver := t.resolver
            fades := t.fades })

/-! ### Levels -/

/-- The leader and the resolved level of a list in priority order (R28 to R31): an empty list gives the clamped park level
and no leader; LATEST the first claim; PEAK the claim of the top tier with the greatest level, the earliest on a tie. The
level is clamped to the ceiling, and lies at or below it. -/
def Obligations.ResolutionFollowsTheModes : Prop :=
  ∀ (cfg : ChannelConfig) (prio : Source → Fin 8) (l : List Claim),
    (l.Pairwise fun c d => prio d.source ≤ prio c.source) →
    (resolve cfg prio l).level ≤ cfg.ceiling ∧
    (l = [] → resolve cfg prio l = { level := if cfg.park ≤ cfg.ceiling then cfg.park else cfg.ceiling, leader := none }) ∧
    ∀ c0 rest, l = c0 :: rest → ∃ before c after, l = before ++ c :: after ∧
      resolve cfg prio l = { level := if c.level ≤ cfg.ceiling then c.level else cfg.ceiling, leader := some c.source } ∧
      match cfg.mode with
      | .latest => before = []
      | .peak => prio c.source = prio c0.source ∧ (∀ d ∈ before, d.level < c.level) ∧
          ∀ d ∈ after, prio d.source = prio c0.source → d.level ≤ c.level

/-- The lead notices of one recomputed channel (R37 to R39): none while the leader's source stays; else LEAD_LOST to the old
leader's port if its claim is still in the list with watch yes, and LEAD_TAKEN to the new leader's port if its claim has
watch yes, with the contents R39 gives. -/
def Obligations.LeadNoticesTellALeaderChange : Prop :=
  ∀ (h : Chan) (before after : Resolved) (l : List Claim) (x : Addressed), x ∈ leadNotices h before after l ↔
    before.leader ≠ after.leader ∧ ∃ (p : Port) (c : Claim), findClaim (sourceOf p) l = some c ∧ c.watch = true ∧
      ((before.leader = some (sourceOf p) ∧
          x = (p, { kind := .leadLost, subject := leaderCode after.leader, item := byteOf h.val, tag := 0,
                    value := after.level, extra := c.level })) ∨
        (after.leader = some (sourceOf p) ∧
          x = (p, { kind := .leadTaken, subject := leaderCode before.leader, item := byteOf h.val, tag := 0,
                    value := after.level, extra := c.level })))

/-- CONFIG_CHANNELS (R26, R34, R41, R42): the fields the mask names are written on every channel of the run and the others
kept. If some record changed, the run is recomputed from the lists as they stand, with its lead notices, and the response
counts the channels whose resolved level and whose leader changed; else nothing is recomputed and both counts are 0. (That
case is R42 against R34, log 15.) -/
def Obligations.ConfigChannelsRecomputesTheRun : Prop :=
  ∀ (p : Port) (r : Request) (s : State) (run : Chan → Bool) (mask : Byte) (new : Chan → ChannelConfig),
    Admitted .configChannels p r s → QueuesBounded s → runInRange (r.num 0) (r.num 1) = true → mask = r.byte 2 →
    mask.toNat ≤ 31 → (mask.getLsbD 0 = true → r.num 3 ≤ 1) → (mask.getLsbD 1 = true → r.num 4 ≤ 1) →
    (mask.getLsbD 2 = true → r.num 5 ≤ 1) → run = inRun (r.num 0) (r.num 1) →
    (new = fun h =>
      let old := s.resolver.config.get h
      if run h then
        { enabled := if mask.getLsbD 0 then decide (r.num 3 = 1) else old.enabled
          polarity := if mask.getLsbD 1 then (if r.num 4 = 0 then .activeHigh else .activeLow) else old.polarity
          mode := if mask.getLsbD 2 then (if r.num 5 = 0 then .latest else .peak) else old.mode
          ceiling := if mask.getLsbD 3 then r.word 6 else old.ceiling
          park := if mask.getLsbD 4 then r.word 8 else old.park }
      else old) →
    ((∀ h, new h = s.resolver.config.get h) → OnlyAnswered .ok [0, 0] .configChannels p r s) ∧
    ((∃ h, new h ≠ s.resolver.config.get h) → ∃ t, Completes .configChannels p r .ok
        [byteOf (countChannels fun h => decide ((s.resolver.resolved.get h).level ≠ (t.resolver.resolved.get h).level)),
         byteOf (countChannels fun h => decide ((s.resolver.resolved.get h).leader ≠ (t.resolver.resolved.get h).leader))] s t ∧
      (∀ h, t.resolver.config.get h = new h ∧ t.resolver.resolved.get h =
        if run h then resolve (new h) (priorityOf s) (s.store.lists.get h) else s.resolver.resolved.get h) ∧
      t = { s with ports := t.ports, executor := t.executor, resolver := t.resolver } ∧
      Placed (allChannels.flatMap fun h =>
        if run h then leadNotices h (s.resolver.resolved.get h) (t.resolver.resolved.get h) (s.store.lists.get h) else [])
        s t)

/-! ### Fades -/

/-- One step of one claim (R50 to R53): the elapsed count rises by 1 and the level is start plus the truncated part of the
way, computed from the start and rounded toward it, monotonic, never past the target; at the last step a FADING claim is
STEADY at its target and a RELEASING one is removed; notify, watch and target stay. A STEADY claim is not touched. A
completion with notify yes raises one FADE_DONE to the port of the claim's source, with the fade's tag, the target as value,
and extra 1 for a release; nothing else raises one, a STR claim never (R54). -/
def Obligations.OneStepOfAFade : Prop :=
  (∀ c : Claim, c.state = .steady → steppedClaim c = some c) ∧
  (∀ (c : Claim) (f : FadeRecord), f.elapsed + 1 = f.duration →
    (c.state = .fading f → steppedClaim c = some { c with state := .steady, level := c.target }) ∧
    (c.state = .releasing f → steppedClaim c = none)) ∧
  (∀ (c : Claim) (f : FadeRecord) (v : Level), f.elapsed + 1 < f.duration →
    v = fadeLevel f.start c.target f.duration (f.elapsed + 1) →
    (c.state = .fading f → steppedClaim c =
      some { c with state := .fading { f with elapsed := f.elapsed + 1 }, level := v }) ∧
    (c.state = .releasing f → steppedClaim c =
      some { c with state := .releasing { f with elapsed := f.elapsed + 1 }, level := v })) ∧
  (∀ (S T : Level) (D e : Nat), e < D →
    (S ≤ T → (fadeLevel S T D e).toNat = S.toNat + (T.toNat - S.toNat) * e / D) ∧
    (T ≤ S → (fadeLevel S T D e).toNat = S.toNat - (S.toNat - T.toNat) * e / D) ∧
    between S T (fadeLevel S T D e) ∧
    ∀ e', e ≤ e' → e' < D → between (fadeLevel S T D e) T (fadeLevel S T D e')) ∧
  (∀ (h : Chan) (c : Claim), c.source = .str → claimDone h c = []) ∧
  ∀ (h : Chan) (c : Claim) (f : FadeRecord) (p : Port), c.source = sourceOf p →
    (c.state = .steady → claimDone h c = []) ∧
    (c.state = .fading f ∨ c.state = .releasing f → f.elapsed + 1 < f.duration ∨ c.notify = false → claimDone h c = []) ∧
    (c.state = .fading f → f.elapsed + 1 = f.duration → c.notify = true → claimDone h c =
      [(p, { kind := .fadeDone, subject := portCode p, item := byteOf h.val, tag := f.tag, value := c.target, extra := 0 })]) ∧
    (c.state = .releasing f → f.elapsed + 1 = f.duration → c.notify = true → claimDone h c =
      [(p, { kind := .fadeDone, subject := portCode p, item := byteOf h.val, tag := f.tag, value := c.target, extra := 1 })])

/-- FADE_STEP, the expiry of the step timer (R10, R20, R46, R47, R54, R68). A STOPPED timer does not expire. With nothing
moving the timer stops and nothing else happens. Else every claim takes its step where it stands, the timer goes on by the
step period or stops if nothing moves any more, and the notices are, in ascending channel order, the FADE_DONE of each
channel before its lead notices. A DETACHING source that the step emptied becomes DETACHED, with SOURCE_STATE of tag 0,
whose place among the step's notices is open (log 6). (The expiry of a stopped timer is not taken, log 2.) -/
def Obligations.FadeStepAdvancesEveryFade : Prop :=
  ∀ s : State,
    (s.resetState.lasting ≠ none ∨ s.fades.timer = none → exec .fadeStep s = .next s) ∧
    (s.resetState.lasting = none → s.fades.timer ≠ none → anyMoving s.store.lists = false →
      exec .fadeStep s = .next { s with fades := { s.fades with timer := none } }) ∧
    (s.resetState.lasting = none → s.fades.timer ≠ none → anyMoving s.store.lists = true → QueuesBounded s → PoolSound s →
      ∃ (t : State) (ns : List Addressed) (n : Nat) (emptied : Port → Bool), exec .fadeStep s = .next t ∧
        (∀ h, t.store.lists.get h = (s.store.lists.get h).filterMap steppedClaim) ∧
        Recomputed s t ∧ PoolMoved s t ∧
        (emptied = fun p => decide ((s.sessions.get p).state = .detaching) &&
          decide (0 < countClaims s.store.lists (sourceOf p)) && decide (countClaims t.store.lists (sourceOf p) = 0)) ∧
        t = { s with
          ports := t.ports
          store := t.store
          resolver := t.resolver
          fades := { s.fades with timer := if anyMoving t.store.lists then some s.fades.period else none }
          sessions :=
            { cp0 := if emptied .cp0 then { s.sessions.cp0 with state := .detached } else s.sessions.cp0
              cp1 := if emptied .cp1 then { s.sessions.cp1 with state := .detached } else s.sessions.cp1
              cp2 := if emptied .cp2 then { s.sessions.cp2 with state := .detached } else s.sessions.cp2 }
          freeCount := n } ∧
        OnlyNotices s t ∧ Placed ns s t ∧
        ((ns.filter fun x => decide (x.2.kind ≠ .sourceState)) = allChannels.flatMap fun h =>
          (s.store.lists.get h).flatMap (claimDone h) ++
          if listKey (s.store.lists.get h) = listKey (t.store.lists.get h) then []
          else leadNotices h (s.resolver.resolved.get h) (t.resolver.resolved.get h) (t.store.lists.get h)) ∧
        (ns.filter fun x => decide (x.2.kind = .sourceState)).Perm
          ((allPorts.filter emptied).flatMap fun p => subscribersGet .sources (sourceStateOf p 0 t) t))

/-! ### Scenes -/

/-- DEFINE_SCENE and CAPTURE_SCENE (R101, R104 to R106, R108, R109, R111). Each asks for entries: the request's, in ascending
order, or the resolved levels of its run. With more than the free entries and the scene's old ones together it is refused
NO_SCENE_SPACE with needed and available. Else the scene is DEFINED with them and the fade, the pool moves by the old and the
new, and SCENE_CHANGED goes to the subscribers. -/
def Obligations.DefineAndCaptureStoreAScene : Prop :=
  ∀ (p : Port) (r : Request) (s : State) (n : Fin 32) (c : Instr) (fade : Nat) (es : List (Chan × Level)) (available : Nat),
    (Admitted .defineScene p r s ∧ c = .defineScene ∧ 1 ≤ r.num 3 ∧ r.num 3 ≤ 64 ∧ es.length = r.num 3 ∧ fade = r.num16 1 ∧
        (es.Pairwise fun a b => a.1 < b.1) ∧
        ∀ (i : Nat) (e : Chan × Level), es[i]? = some e → r.num (4 + 3 * i) = e.1.val ∧ r.word (5 + 3 * i) = e.2) ∨
      (Admitted .captureScene p r s ∧ c = .captureScene ∧ runInRange (r.num 1) (r.num 2) = true ∧ fade = r.num16 3 ∧
        es = (allChannels.filter (inRun (r.num 1) (r.num 2))).map fun h => (h, (s.resolver.resolved.get h).level)) →
    r.num 0 = n.val → available = s.scenes.free + (sceneEntriesOf (s.scenes.scenes.get n)).length →
    (available < es.length → OnlyAnswered .noSceneSpace (byteOf es.length :: bytesOf available) c p r s) ∧
    (es.length ≤ available → QueuesBounded s →
      ∃ t, Completes c p r .ok (byteOf es.length :: bytesOf (available - es.length)) s t ∧
        t = { s with
          ports := t.ports
          executor := t.executor
          scenes := { scenes := s.scenes.scenes.set n (.defined fade es), free := available - es.length } } ∧
        Placed (subscribersGet .scenes
          { kind := .sceneChanged, subject := portCode p, item := byteOf n.val, tag := r.tag, value := 1,
            extra := BitVec.ofNat 16 es.length } t) s t)

/-- ERASE_SCENE (R107, R111): a DEFINED scene becomes EMPTY, its entries return to the pool, and SCENE_CHANGED goes to the
subscribers; on an EMPTY scene nothing changes and no notice is raised. The response counts the entries freed and the free
ones. -/
def Obligations.EraseEmptiesAScene : Prop :=
  ∀ (p : Port) (r : Request) (s : State) (n : Fin 32), Admitted .eraseScene p r s → r.num 0 = n.val →
    (s.scenes.scenes.get n = .empty → OnlyAnswered .ok (0 :: bytesOf s.scenes.free) .eraseScene p r s) ∧
    ∀ fade es, s.scenes.scenes.get n = .defined fade es → QueuesBounded s →
      ∃ t, Completes .eraseScene p r .ok (byteOf es.length :: bytesOf (s.scenes.free + es.length)) s t ∧
        t = { s with
          ports := t.ports
          executor := t.executor
          scenes := { scenes := s.scenes.scenes.set n .empty, free := s.scenes.free + es.length } } ∧
        Placed (subscribersGet .scenes
          { kind := .sceneChanged, subject := portCode p, item := byteOf n.val, tag := r.tag, value := 0, extra := 0 } t) s t

/-! ### The stream -/

/-- Which level a packet gives a channel (R125): level word i + 1 of a NARROW packet times 257, or words 2i + 1 and 2i + 2 of
a WIDE one, high byte first, go to slot f + i, f being the data value of word 2; slot s maps to channel first + (s - base)
for s from base up to base + count - 1, and every other slot to nothing. -/
def Obligations.SlotsMapThroughTheWindow : Prop :=
  ∀ (rec : StreamRecord) (ws : List StagedWord) (data : Nat → Byte) (h : Chan) (v : Level),
    3 ≤ ws.length → (∀ i w, ws[i]? = some w → data i = w.data) → (rec.width = .wide → (ws.length - 3) % 2 = 0) →
    (mappedLevel rec ws h = some v ↔ ∃ i,
      rec.slotBase ≤ (data 1).toNat + i ∧ (data 1).toNat + i < rec.slotBase + rec.count ∧
      h.val = rec.first + ((data 1).toNat + i - rec.slotBase) ∧
      match rec.width with
      | .narrow => i < ws.length - 3 ∧ v.toNat = (data (2 + i)).toNat * 257
      | .wide => i < (ws.length - 3) / 2 ∧ v.toNat = (data (2 + 2 * i)).toNat * 256 + (data (3 + 2 * i)).toNat)

/-- The words on the line (R118 to R122, R135, R138). A bit is the majority of its samples 7, 8 and 9, and the word is noisy if
those of one of its bits disagree; the data value comes least significant bit first; a start bit of 1 is a false start, a stop
bit of 0 a framing error, whatever the other bits say. The receiver takes a fall of the line unless it still waits for a
sample at 1. A mark word in MUTED is evaluated as a header: with a window and the id or 255 it opens a packet as word 1, else
the receiver stays MUTED. In COLLECTING it first ends the packet, as idle does, and is then evaluated. Any other good word is
appended in COLLECTING, the 132nd discarding the packet as OVERLONG, and ignored in MUTED. A framing error discards the packet
as FRAMING, is ignored in MUTED, bars the idle event, and makes the receiver wait for a sample at 1; a good word allows the
idle event and lets the next word be sought at once. A false start forms no word and ends that wait alone. (How the samples
before a fall come with a word, and that a word not taken leaves the state as it is, are the model's choice, logs 2, 11, 19.) -/
def Obligations.WordsReachThePacketLogic : Prop :=
  ∀ (maj split : BitSamples → Bool),
    (maj = fun b => decide (2 ≤ (b.getLsbD 7).toNat + (b.getLsbD 8).toNat + (b.getLsbD 9).toNat)) →
    (split = fun b => decide (b.getLsbD 7 ≠ b.getLsbD 8 ∨ b.getLsbD 8 ≠ b.getLsbD 9)) →
    (∀ w : WordSamples,
      (maj w.start = true → lineWord w = .falseStart) ∧
      (maj w.start = false → maj w.stop = false → lineWord w = .framing) ∧
      (maj w.start = false → maj w.stop = true → ∃ d noise, lineWord w = .word d (maj w.mark) noise ∧
        (∀ i : Fin 8, d.getLsbD i.val = maj (w.data.get i)) ∧
        (noise = true ↔
          split w.start = true ∨ (∃ i, split (w.data.get i) = true) ∨ split w.mark = true ∨ split w.stop = true))) ∧
    ∀ (s : State) (w : WordSamples) (d : Byte) (noise : Bool), s.resetState.lasting = none →
      (s.stream.awaitsHigh = true → true ∉ w.lead →
        exec (.markWord w) s = .next s ∧ exec (.streamWord w) s = .next s ∧ exec (.framingError w) s = .next s) ∧
      (s.stream.awaitsHigh = false ∨ true ∈ w.lead →
        (lineWord w = .word d true noise → s.stream.receiver = .muted →
          exec (.markWord w) s = .next { s with
            stream :=
              if s.stream.record.count ≠ 0 ∧ (d = s.stream.record.id ∨ d = 255) then
                { s.stream with
                  idleArmed := true, awaitsHigh := false, receiver := .collecting, staging := [{ data := d, noise := noise }] }
              else { s.stream with idleArmed := true, awaitsHigh := false, staging := [] } }) ∧
        (lineWord w = .word d true noise → s.stream.receiver = .collecting →
          ∃ u, exec .idle { s with stream := { s.stream with idleArmed := true } } = .next u ∧ u.stream.receiver = .muted ∧
            exec (.markWord w) s = exec (.markWord w) u) ∧
        (lineWord w = .word d false noise →
          exec (.streamWord w) s = .next { s with
            stream := match s.stream.receiver with
              | .muted => { s.stream with idleArmed := true, awaitsHigh := false }
              | .collecting =>
                if s.stream.staging.length < 131 then
                  { s.stream with
                    idleArmed := true, awaitsHigh := false
                    staging := s.stream.staging ++ [{ data := d, noise := noise }] }
                else
                  { s.stream with
                    idleArmed := true
                    awaitsHigh := false
                    receiver := .muted
                    staging := []
                    counters := { s.stream.counters with overlong := min 65535 (s.stream.counters.overlong + 1) } } }) ∧
        (lineWord w = .framing →
          exec (.framingError w) s = .next { s with
            stream := match s.stream.receiver with
              | .muted => { s.stream with idleArmed := false, awaitsHigh := true }
              | .collecting =>
                { s.stream with
                  idleArmed := false
                  awaitsHigh := true
                  receiver := .muted
                  staging := []
                  counters := { s.stream.counters with framing := min 65535 (s.stream.counters.framing + 1) } } })) ∧
      ∀ f : StartSamples, exec (.falseStart f) s = .next { s with
        stream := { s.stream with
          awaitsHigh := if true ∈ f.lead ∧ maj f.start = true then false else s.stream.awaitsHigh } }

/-- IDLE (R119 to R124). It follows a good stop bit once. In MUTED it does nothing else. In COLLECTING the packet ends; the
first test it fails gives the counter: noise mark, fewer than 3 words, an odd number of WIDE level words, a sum other than
0. A discarded packet reaches nothing but its counter. (An idle event that does not follow a good stop bit is not taken, log
2.) -/
def Obligations.IdleDiscardsAFaultyPacket : Prop :=
  ∀ (s : State) (ws : List StagedWord) (k : StreamCounters), s.resetState.lasting = none → ws = s.stream.staging →
    k = s.stream.counters →
    (s.stream.idleArmed = false → exec .idle s = .next s) ∧
    (s.stream.idleArmed = true → s.stream.receiver = .muted →
      exec .idle s = .next { s with stream := { s.stream with idleArmed := false } }) ∧
    ∀ k', ((∃ w ∈ ws, w.noise = true) ∧ k' = { k with noise := min 65535 (k.noise + 1) }) ∨
        ((∀ w ∈ ws, w.noise = false) ∧ (ws.length < 3 ∨ (s.stream.record.width = .wide ∧ (ws.length - 3) % 2 = 1)) ∧
          k' = { k with short := min 65535 (k.short + 1) }) ∨
        ((∀ w ∈ ws, w.noise = false) ∧ 3 ≤ ws.length ∧ ¬ (s.stream.record.width = .wide ∧ (ws.length - 3) % 2 = 1) ∧
          (ws.map fun w => w.data.toNat).sum % 256 ≠ 0 ∧ k' = { k with check := min 65535 (k.check + 1) }) →
      s.stream.idleArmed = true → s.stream.receiver = .collecting →
      exec .idle s = .next { s with
        stream := { s.stream with idleArmed := false, receiver := .muted, staging := [], counters := k' } }

/-- An accepted packet (R15, R123, R126, R132): counted; the STR claim of each mapped channel created or set STEADY at the
packet's level, in front of its tier if it is new or its level differs, else in its place; the loss timer restarted; WAITING
and LOST become LIVE with STREAM_UP after the lead notices. -/
def Obligations.AcceptedPacketIsApplied : Prop :=
  ∀ (s : State) (ws : List StagedWord), s.resetState.lasting = none → s.stream.idleArmed = true →
    s.stream.receiver = .collecting → ws = s.stream.staging → (∀ w ∈ ws, w.noise = false) → 3 ≤ ws.length →
    ¬ (s.stream.record.width = .wide ∧ (ws.length - 3) % 2 = 1) → (ws.map fun w => w.data.toNat).sum % 256 = 0 →
    QueuesBounded s → PoolSound s → ListsOrdered s → StreamSound s →
    ∃ t, exec .idle s = .next t ∧
      t = { s with
        ports := t.ports
        store := t.store
        resolver := t.resolver
        fades := t.fades
        stream := { s.stream with
          idleArmed := false
          receiver := .muted
          staging := []
          lossRemaining := s.stream.record.lostTimeout
          record := { s.stream.record with state := .live }
          counters := { s.stream.counters with accepted := min 65535 (s.stream.counters.accepted + 1) } } } ∧
      (∀ h, match mappedLevel s.stream.record ws h with
        | none => t.store.lists.get h = s.store.lists.get h
        | some v => OthersKept .str s t h ∧
          (∃ c, claimOn t .str h = some c ∧ c.source = .str ∧ c.state = .steady ∧ c.level = v ∧ c.target = v ∧
            c.notify = (claimOn s .str h).elim false (·.notify) ∧ c.watch = (claimOn s .str h).elim false (·.watch)) ∧
          if (claimOn s .str h).elim false (fun c => decide (c.level = v)) = true then PlacesKept s t h
          else AtFrontOfTier (priorityOf t) .str (t.store.lists.get h)) ∧
      ChangeTaken s t ∧ OnlyNotices s t ∧
      Placed (changeLeadNotices s t ++
        if s.stream.record.state = .live then []
        else subscribersGet .stream
          { kind := .streamUp, subject := 3, item := 0xFF, tag := 0, value := s.stream.record.state.code.setWidth 16,
            extra := BitVec.ofNat 16 (countClaims t.store.lists .str) } t) s t

/-- LOSS_TIMER_EXPIRY (R129, R130, R132): it happens in LIVE alone. The stream is LOST; HOLD leaves its claims alone,
RELEASE releases every one with the loss fade, notify no and tag 0; STREAM_LOST follows the lead notices. (In another state
the command is not taken, log 2.) -/
def Obligations.LossActsByTheStreamsLossPolicy : Prop :=
  ∀ s : State,
    (s.resetState.lasting ≠ none ∨ s.stream.record.state ≠ .live → exec .lossTimerExpiry s = .next s) ∧
    (s.resetState.lasting = none → s.stream.record.state = .live → QueuesBounded s → PoolSound s →
      ∃ t, exec .lossTimerExpiry s = .next t ∧
        t = { s with
          ports := t.ports
          store := t.store
          resolver := t.resolver
          fades := t.fades
          stream := { s.stream with record := { s.stream.record with state := .lost }, lossRemaining := 0 } } ∧
        OnlyNotices s t ∧
        (match s.stream.record.lossPolicy with
          | .hold => t.store = s.store ∧ t.resolver = s.resolver ∧ t.fades = s.fades
          | .release =>
            ReleasedOn .str { steps := s.stream.record.lossFade, tag := 0, notify := false } everywhere s t ∧
              ChangeTaken s t) ∧
        Placed (changeLeadNotices s t ++ subscribersGet .stream
          { kind := .streamLost, subject := 3, item := 0xFF, tag := 0,
            value := s.stream.record.lossPolicy.code.setWidth 16,
            extra := BitVec.ofNat 16 (countClaims t.store.lists .str) } t) s t)

/-- CONFIG_STREAM (R22, R133 to R135). If free and the old count together are less than the new count it is refused
NO_CLAIM_SPACE with needed and available. Else every STR claim is removed, the reservation moves from the old count to the
new, the record takes every field but the priority, the state is OFF for a count of 0 and WAITING otherwise, the loss timer
stops, a packet in assembly is discarded as RECONFIGURED, no idle event follows from an earlier stop bit, and the next word
is sought once the line has been sampled at 1 (log 19). -/
def Obligations.ConfigStreamMovesTheWindow : Prop :=
  ∀ (p : Port) (r : Request) (s : State) (x : StreamRecord) (available : Nat), Admitted .configStream p r s →
    x.priority = s.stream.record.priority → x.state = (if x.count = 0 then .off else .waiting) →
    r.byte 0 = x.id → r.num 1 = x.slotBase → r.num 2 = x.first → r.num 3 = x.count → r.byte 4 = x.width.code →
    r.byte 5 = x.lossPolicy.code → r.num16 6 = x.divisor → r.num16 8 = x.lostTimeout → r.num16 10 = x.lossFade →
    x.id ≠ 255 → x.first ≤ 63 → x.count ≤ 64 → x.first + x.count ≤ 64 → x.slotBase + x.count ≤ 256 → x.divisor ≤ 4095 →
    50 ≤ x.lostTimeout → x.lostTimeout ≤ 2000 → available = s.store.free + s.stream.record.count →
    (available < x.count → OnlyAnswered .noClaimSpace [byteOf x.count, byteOf available] .configStream p r s) ∧
    (x.count ≤ available → QueuesBounded s → PoolSound s →
      ∃ t, Completes .configStream p r .ok
          [x.state.code, byteOf (countClaims s.store.lists .str), byteOf (available - x.count), byteOf x.count] s t ∧
        (∀ h, t.store.lists.get h = removeClaim .str (s.store.lists.get h)) ∧
        t.store.free = available - x.count ∧ t.store.reservedUnused = x.count ∧
        (∀ src, claimCount t src = if src = .str then 0 else claimCount s src) ∧
        Recomputed s t ∧ TimerStarted s t ∧ Placed (changeLeadNotices s t) s t ∧
        t = { s with
          ports := t.ports
          executor := t.executor
          store := t.store
          resolver := t.resolver
          fades := t.fades
          stream := { s.stream with
            record := x
            receiver := .muted
            staging := []
            lossRemaining := 0
            idleArmed := false
            awaitsHigh := true
            counters := match s.stream.receiver with
              | .muted => s.stream.counters
              | .collecting =>
                { s.stream.counters with reconfigured := min 65535 (s.stream.counters.reconfigured + 1) } } })

/-- READ_STREAM (R136, R189): the record in the order of the CONFIG_STREAM body, priority, stream state, receiver state, loss
timer remaining, STR claim count and the seven counters; with clear set the counters are then 0. Nothing else changes. -/
def Obligations.ReadStreamReportsAndClears : Prop :=
  ∀ (p : Port) (r : Request) (s : State) (x : StreamRecord) (k : StreamCounters), Admitted .readStream p r s → r.num 0 ≤ 1 →
    x = s.stream.record → k = s.stream.counters →
    ∃ t, Completes .readStream p r .ok
        ([x.id, byteOf x.slotBase, byteOf x.first, byteOf x.count, x.width.code, x.lossPolicy.code] ++ bytesOf x.divisor ++
          bytesOf x.lostTimeout ++ bytesOf x.lossFade ++
          [byteOf x.priority.val, x.state.code, s.stream.receiver.code] ++ bytesOf s.stream.lossRemaining ++
          [byteOf (claimCount s .str)] ++ bytesOf k.accepted ++ bytesOf k.framing ++ bytesOf k.noise ++ bytesOf k.overlong ++
          bytesOf k.short ++ bytesOf k.check ++ bytesOf k.reconfigured) s t ∧
      NoNotice s t ∧
      t = { s with
        ports := t.ports
        executor := t.executor
        stream := if r.num 0 = 1 then { s.stream with counters := ⟨0, 0, 0, 0, 0, 0, 0⟩ } else s.stream }

/-! ### The output -/

/-- HOLD, UNHOLD and the hold timer's expiry (R146 to R148). HOLD sets the flag and the tag; with a limit it starts the
timer and notes the limit, with limit 0 it stops the timer. UNHOLD clears flag and timer and keeps the tag. The expiry of a
running timer does the same and places HOLD_EXPIRED in that port alone; a stopped timer does not expire. The generator state
and the active levels are untouched until the next frame start. (That expiry is then not taken, log 2.) -/
def Obligations.HoldsAreSetClearedAndExpire : Prop :=
  ∀ (p : Port) (r : Request) (s : State) (x : Hold) (flags : PerPort Hold → Nat), x = s.output.holds.get p →
    (flags = fun y => allPorts.countP fun q => (y.get q).flag) →
    (Admitted .hold p r s → ∃ t, Completes .hold p r .ok
        (bytesOf s.output.holdLimit ++ [byteOf (flags t.output.holds)]) s t ∧ NoNotice s t ∧
      t = { s with
        ports := t.ports
        executor := t.executor
        output := { s.output with
          holds := s.output.holds.set p
            (if s.output.holdLimit = 0 then { x with flag := true, tag := r.tag, timer := none }
            else { flag := true, tag := r.tag, timer := some s.output.holdLimit, startedLimit := s.output.holdLimit }) } }) ∧
    (Admitted .unhold p r s → ∃ t, Completes .unhold p r .ok [byteOf (flags t.output.holds)] s t ∧ NoNotice s t ∧
      t = { s with
        ports := t.ports
        executor := t.executor
        output := { s.output with holds := s.output.holds.set p { x with flag := false, timer := none } } }) ∧
    (s.resetState.lasting ≠ none ∨ x.timer = none → exec (.holdTimerExpiry p) s = .next s) ∧
    (s.resetState.lasting = none → x.timer ≠ none → QueuesBounded s → ∃ t, exec (.holdTimerExpiry p) s = .next t ∧
      t = { s with
        ports := t.ports
        output := { s.output with holds := s.output.holds.set p { x with flag := false, timer := none } } } ∧
      OnlyNotices s t ∧
      Placed [(p,
        { kind := .holdExpired, subject := portCode p, item := 0xFF, tag := x.tag,
          value := BitVec.ofNat 16 x.startedLimit, extra := BitVec.ofNat 16 (flags t.output.holds) })] s t)

/-- CONFIG_OUTPUT (R48, R151, R152): prescale held, step period and hold limit are written; the prescale applied, the step
timer and the running hold timers are untouched. The response carries the prescale held and applied, the period and the
limit. -/
def Obligations.ConfigOutputWritesThreeItems : Prop :=
  ∀ (p : Port) (r : Request) (s : State), Admitted .configOutput p r s → 1 ≤ r.num 0 → r.num 0 ≤ 64 → r.num 1 ∈ [1, 2, 4, 8] →
    (r.num16 2 = 0 ∨ (10 ≤ r.num16 2 ∧ r.num16 2 ≤ 5000)) →
    ∃ t, Completes .configOutput p r .ok
        ([r.byte 0, byteOf s.output.prescaleApplied, r.byte 1] ++ [r.byte 2, r.byte 3]) s t ∧ NoNotice s t ∧
      t = { s with
        ports := t.ports
        executor := t.executor
        output := { s.output with prescaleHeld := r.num 0, holdLimit := r.num16 2 }
        fades := { s.fades with period := r.num 1 } }

/-- FRAME_START (R141 to R144). With no hold flag set the generator is RUNNING and takes every resolved level; with one set
it is HELD and the active levels stay. The prescale, enables and polarities are taken either way. An enabled channel's
accumulator gains the sixteenths of its level, and its pulse is one unit longer when that carries; a disabled channel has no
pulse and accumulator 0. Nothing outside the generator changes. (While a reset lasts the command is not taken, log 2.) -/
def Obligations.FrameStartShapesThePulses : Prop :=
  ∀ s : State,
    (s.resetState.lasting ≠ none → exec .frameStart s = .next s) ∧
    (s.resetState.lasting = none → ∃ t held, exec .frameStart s = .next t ∧
      (held = decide (∃ p ∈ allPorts, (s.output.holds.get p).flag = true)) ∧
      (∀ h : Chan,
        t.output.active.get h = (if held then s.output.active.get h else (s.resolver.resolved.get h).level) ∧
        t.output.appliedEnable.get h = (s.resolver.config.get h).enabled ∧
        t.output.appliedPolarity.get h = (s.resolver.config.get h).polarity ∧
        (if (s.resolver.config.get h).enabled = true then
          ∃ w f a : Nat, (t.output.active.get h).toNat = 16 * w + f ∧ f < 16 ∧ a = s.output.accumulator.get h + f ∧
            if 16 ≤ a then t.output.accumulator.get h = a - 16 ∧ t.output.pulse.get h = w + 1
            else t.output.accumulator.get h = a ∧ t.output.pulse.get h = w
        else t.output.accumulator.get h = 0 ∧ t.output.pulse.get h = 0)) ∧
      t = { s with
        output := { s.output with
          active := t.output.active
          accumulator := t.output.accumulator
          appliedEnable := t.output.appliedEnable
          appliedPolarity := t.output.appliedPolarity
          pulse := t.output.pulse
          generator := if held then .held else .running
          prescaleApplied := s.output.prescaleHeld
          position := 0
          unitClocks := 0 } })

/-- Over 16 frame starts in which a channel's active level stays L and the channel stays enabled, its pulses add up to L
units less the accumulator at the end plus the accumulator at the start, which are equal (R143). `before i` is the state at
frame start `i`, `after i` the one it leaves; what falls between two frame starts leaves the accumulator alone. -/
def Obligations.SixteenFramesGiveTheLevel : Prop :=
  ∀ (before after : Nat → State) (h : Chan) (L : Level),
    (∀ i, i < 16 → (before i).resetState.lasting = none ∧ exec .frameStart (before i) = .next (after i) ∧
      ((before i).resolver.config.get h).enabled = true ∧ (after i).output.active.get h = L) →
    (∀ i, i < 15 → (before (i + 1)).output.accumulator.get h = (after i).output.accumulator.get h) →
    (before 0).output.accumulator.get h ≤ 15 →
    ((List.range 16).map fun i => (after i).output.pulse.get h).sum = L.toNat ∧
    (after 15).output.accumulator.get h = (before 0).output.accumulator.get h

/-- The pins (R144, R153, R166): an enabled channel drives its active level in the units of its pulse, which begins at unit
(c mod 8) × 512 and wraps within the frame, and its inactive level in every other; a disabled one drives its inactive level.
ATN is driven low while a response or a notice waits. While a reset lasts every output pin is low and every ATN high. -/
def Obligations.PinsFollowThePulsesAndQueues : Prop :=
  ∀ s : State,
    (s.resetState.lasting ≠ none → (∀ h, outHigh s h = false) ∧ ∀ p, atnAsserted s p = false) ∧
    (s.resetState.lasting = none →
      (∀ p, atnAsserted s p = true ↔ (s.ports.get p).responses ≠ [] ∨ (s.ports.get p).notices ≠ []) ∧
      ∀ h : Chan, s.output.position < 4096 → s.output.pulse.get h ≤ 4096 →
        (outHigh s h = true ↔
          ((s.output.appliedEnable.get h = true ∧ ∃ i, i < s.output.pulse.get h ∧
            s.output.position = (h.val % 8 * 512 + i) % 4096) ↔ s.output.appliedPolarity.get h = .activeHigh)))

/-- While any hold flag is set no command but a device reset changes the active level table (R141, R150). -/
def Obligations.AHoldFreezesTheActiveLevels : Prop :=
  ∀ (c : Instr) (s : State), anyHold s.output.holds = true → s.resetState.lasting = none → c ≠ .por → c ≠ .rst → c ≠ .restart →
    ∃ t, exec c s = .next t ∧ t.output.active = s.output.active

/-! ### Reading -/

/-- PING, READ_SCENE, READ_LEVELS, READ_CHANNEL and READ_SOURCE report and change nothing (R43, R69, R110, R174, R177, R179
to R181, R189). PING gives the port's own state, keepalive remaining and claim count. An EMPTY scene reads as fade 0 and no
entry; a claim entry carries the remaining steps; STR reads its stream state, with the fields of a session 0. -/
def Obligations.ReadsReportAndChangeNothing : Prop :=
  ∀ (p : Port) (r : Request) (s : State),
    (Admitted .ping p r s →
      OnlyAnswered .ok
        ([(s.sessions.get p).state.code] ++ bytesOf (s.sessions.get p).keepaliveRemaining ++
          [byteOf (claimCount s (sourceOf p))]) .ping p r s) ∧
    (Admitted .readScene p r s → ∀ n : Fin 32, r.num 0 = n.val →
      (s.scenes.scenes.get n = .empty → OnlyAnswered .ok [r.byte 0, 0, 0, 0, 0] .readScene p r s) ∧
      ∀ fade es, s.scenes.scenes.get n = .defined fade es →
        OnlyAnswered .ok ([r.byte 0, 1] ++ bytesOf fade ++ [byteOf es.length] ++
          es.flatMap fun e => byteOf e.1.val :: bytes16 e.2) .readScene p r s) ∧
    (Admitted .readLevels p r s → runInRange (r.num 0) (r.num 1) = true → r.num 2 ≤ 1 →
      OnlyAnswered .ok ([r.byte 0, r.byte 1, r.byte 2] ++
        (allChannels.filter (inRun (r.num 0) (r.num 1))).flatMap fun h =>
          bytes16 (if r.num 2 = 0 then (s.resolver.resolved.get h).level else s.output.active.get h)) .readLevels p r s) ∧
    (Admitted .readChannel p r s → ∀ h : Chan, r.num 0 = h.val →
      OnlyAnswered .ok
        ([r.byte 0, boolCode (s.resolver.config.get h).enabled, (s.resolver.config.get h).polarity.code,
            (s.resolver.config.get h).mode.code] ++ bytes16 (s.resolver.config.get h).ceiling ++
          bytes16 (s.resolver.config.get h).park ++ bytes16 (s.resolver.resolved.get h).level ++
          bytes16 (s.output.active.get h) ++
          [leaderCode (s.resolver.resolved.get h).leader, byteOf (s.store.lists.get h).length] ++
          (s.store.lists.get h).flatMap fun c =>
            [c.source.code, c.state.code] ++ bytes16 c.level ++ bytes16 c.target ++
              bytesOf (match c.state with
                | .steady => 0
                | .fading f => f.duration - f.elapsed
                | .releasing f => f.duration - f.elapsed)) .readChannel p r s) ∧
    (Admitted .readSource p r s → ∀ (q : Port) (x : SourceRecord), r.byte 0 = portCode q → x = s.sessions.get q →
      OnlyAnswered .ok
        ([portCode q, x.state.code, byteOf x.priority.val,
            byteOf (x.rights.config.toNat + 2 * x.rights.claim.toNat + 4 * x.rights.observe.toNat)] ++
          bytesOf x.keepalivePeriod ++ bytesOf x.keepaliveRemaining ++ [x.lossPolicy.code] ++ bytesOf x.lossFade ++
          [byteOf (x.subscriptions.stream.toNat + 2 * x.subscriptions.sources.toNat + 4 * x.subscriptions.scenes.toNat),
           byteOf (claimCount s (sourceOf q)), boolCode (s.output.holds.get q).flag]) .readSource p r s) ∧
    (Admitted .readSource p r s → r.num 0 = 3 →
      OnlyAnswered .ok
        ([3, s.stream.record.state.code, byteOf s.stream.record.priority.val, 0, 0, 0, 0, 0,
            s.stream.record.lossPolicy.code] ++ bytesOf s.stream.record.lossFade ++ [0, byteOf (claimCount s .str), 0])
        .readSource p r s)

/-- READ_STATUS (R175, R176, R189): the four pool counts, the free scene entries, the states, the generator, the hold flags,
the three items of CONFIG_OUTPUT, and the port's own rights and lost-notice count, which is then 0. Nothing else changes. -/
def Obligations.ReadStatusReportsAndClearsTheLostCount : Prop :=
  ∀ (p : Port) (r : Request) (s : State), Admitted .readStatus p r s →
    ∃ t, Completes .readStatus p r .ok
        ([byteOf s.store.free, byteOf (claimCount s .cp0 + claimCount s .cp1 + claimCount s .cp2), byteOf (claimCount s .str),
            byteOf s.store.reservedUnused] ++ bytesOf s.scenes.free ++
          [s.sessions.cp0.state.code, s.sessions.cp1.state.code, s.sessions.cp2.state.code, s.stream.record.state.code,
            s.output.generator.code,
            byteOf (s.output.holds.cp0.flag.toNat + 2 * s.output.holds.cp1.flag.toNat + 4 * s.output.holds.cp2.flag.toNat),
            byteOf s.output.prescaleHeld, byteOf s.fades.period] ++ bytesOf s.output.holdLimit ++
          [byteOf ((s.sessions.get p).rights.config.toNat + 2 * (s.sessions.get p).rights.claim.toNat +
              4 * (s.sessions.get p).rights.observe.toNat), byteOf (s.ports.get p).lost]) s t ∧
      (∀ q, (t.ports.get q).notices = (s.ports.get q).notices ∧
        (t.ports.get q).lost = if q = p then 0 else (s.ports.get q).lost) ∧
      t = { s with ports := t.ports, executor := t.executor }

/-! ### Resets -/

/-- What a reset leaves, spelled out (R24, R25, R27, R45, R63, R102, R124, R127, R137, R139, R167, R171, R173, R183): the
values of the state after POR. (The count of free values and the links are the model's choice and left out, logs 7 and 9;
that no idle event is owed, log 18; so is that no reset lasts.) -/
def Obligations.ResetValuesAreAsStated : Prop :=
  ∀ s : State, s = State.reset →
    (∀ h, s.store.lists.get h = [] ∧ s.resolver.resolved.get h = { level := 0, leader := none } ∧
      s.resolver.config.get h =
        { enabled := true, polarity := .activeHigh, mode := .latest, ceiling := 65535, park := 0 } ∧
      s.output.active.get h = 0 ∧ s.output.accumulator.get h = 0 ∧ s.output.appliedEnable.get h = true ∧
      s.output.appliedPolarity.get h = .activeHigh ∧ s.output.pulse.get h = 0) ∧
    s.store.free = 192 ∧ s.store.reservedUnused = 0 ∧ (∀ src, claimCount s src = 0) ∧
    s.fades = { period := 1, timer := none } ∧
    (∀ p, s.sessions.get p =
      { state := .detached, priority := 3, rights := ⟨decide (p = .cp0), true, true⟩, keepalivePeriod := 0,
        keepaliveRemaining := 0, lossPolicy := .hold, lossFade := 0, subscriptions := ⟨false, false, false⟩ }) ∧
    (∀ n, s.scenes.scenes.get n = .empty) ∧ s.scenes.free = 512 ∧
    s.stream =
      { record :=
          { state := .off, priority := 2, id := 0, slotBase := 0, first := 0, count := 0, width := .narrow, divisor := 7,
            lostTimeout := 1000, lossPolicy := .hold, lossFade := 0 }
        receiver := .muted, staging := [], counters := ⟨0, 0, 0, 0, 0, 0, 0⟩, lossRemaining := 0,
        idleArmed := false, awaitsHigh := true } ∧
    s.output.generator = .running ∧ s.output.prescaleHeld = 1 ∧ s.output.prescaleApplied = 1 ∧ s.output.position = 0 ∧
    (∀ p, s.output.holds.get p = { flag := false, timer := none, tag := 0, startedLimit := 0 }) ∧ s.output.holdLimit = 1000 ∧
    (∀ p, (s.ports.get p).requests = [] ∧ (s.ports.get p).responses = [] ∧ (s.ports.get p).lost = 0 ∧
      (s.ports.get p).outcome = .none ∧ atnAsserted s p = true ∧ statusByte (s.ports.get p) = 0x88 ∧
      (s.ports.get p).notices =
        [{ kind := .restarted, subject := 0xFF, item := 0xFF, tag := 0, value := 0, extra := 0 }]) ∧
    s.executor = { lastServed := .cp2, current := none } ∧ s.resetState.lasting = none ∧ s.pending = []

/-- The three kinds of reset (R62, R81, R102, R138, R153, R171 to R173, R182, R183). POR and RST last from their event to
RESET_END; RESTART begins and ends in its own. After each every block holds its reset values, but that RST and RESTART keep
the scenes; the links go on, marked if a transaction ran; each notice queue holds RESTARTED alone, with the cause, the port
and the tag. `u` is the state at the beginning of a POR or RST and `v` any state its RESET_END may find: links that moved
on, outcomes latched (R172) and the pin may differ from `u`, and the end leaves links and outcomes as it finds them. The
commands that wait and the count of free values are the model's own and stay. (A POR during another reset, log 10; an end
with no reset lasting, log 2; a latched outcome that stays, log 13; the values from the beginning on, log 16; a time base
that a RESTART begins anew, log 20; that no idle event is owed from a stop bit before the reset, log 18.) -/
def Obligations.ResetsLeaveEveryBlockAtItsResetValues : Prop :=
  ∀ (s : State) (port : BitVec 16 → Byte → Byte → Port → PortInterface) (during : State → State → Prop),
    (port = fun value subject tag q =>
      { State.reset.ports.get q with
        link := { (s.ports.get q).link with voided := (s.ports.get q).link.voided || (s.ports.get q).link.selected }
        notices := [{ kind := .restarted, subject := subject, item := 0xFF, tag := tag, value := value, extra := 0 }] }) →
    (during = fun u v => v.resetState.lasting = u.resetState.lasting ∧
      v = { u with ports := v.ports, resetState := v.resetState, pending := v.pending } ∧
      ∀ q, v.ports.get q = { u.ports.get q with link := (v.ports.get q).link, outcome := (v.ports.get q).outcome }) →
    (∃ u, exec .por s = .next u ∧ u.resetState.lasting = some .por ∧
      (∀ q, (u.ports.get q).link = (port 0 0xFF 0 q).link ∧ (u.ports.get q).outcome = .none) ∧
      ∀ v, during u v → ∃ t, exec .resetEnd v = .next t ∧
        t = { State.reset with ports := t.ports, freeCount := s.freeCount, pending := v.pending } ∧
        ∀ q, t.ports.get q =
          { port 0 0xFF 0 q with link := (v.ports.get q).link, outcome := (v.ports.get q).outcome }) ∧
    (s.resetState.lasting = none → ∃ u, exec .rst s = .next u ∧
      u.resetState = { lasting := some .rst, pinLow := true } ∧
      (∀ q, (u.ports.get q).link = (port 1 0xFF 0 q).link ∧ (u.ports.get q).outcome = .none) ∧
      ∀ v, during u v → ∃ t, exec .resetEnd v = .next t ∧
        t = { State.reset with ports := t.ports, scenes := s.scenes, freeCount := s.freeCount, pending := v.pending } ∧
        ∀ q, t.ports.get q =
          { port 1 0xFF 0 q with link := (v.ports.get q).link, outcome := (v.ports.get q).outcome }) ∧
    (s.resetState.lasting = none → exec .resetEnd s = .next s) ∧
    ∀ p r, Admitted .restart p r s → ∃ t, exec .restart s = .next t ∧
      t = { State.reset with ports := t.ports, scenes := s.scenes, freeCount := s.freeCount, pending := s.pending } ∧
      ∀ q, t.ports.get q = port 2 (portCode p) r.tag q

/-- While a reset lasts (R138, R153, R166, R172, R183) no command but a reset's begin or end changes anything outside the
links and the last-submit outcomes; every SDO that is driven shifts out 0. RST during a POR only makes that reset last
(R183), and a RST that lasts already does not begin again. (Commands not taken, log 2; an outcome latched in the reset, log
13; the values from its beginning on, log 16.) -/
def Obligations.NothingRunsWhileAResetLasts : Prop :=
  ∀ s : State, s.resetState.lasting ≠ none → ExecutorSound s →
    (∀ c : Instr, c ≠ .por → c ≠ .rst → c ≠ .resetEnd → ∃ t, exec c s = .next t ∧ t = { s with ports := t.ports } ∧
      ∀ q, t.ports.get q = { s.ports.get q with link := (t.ports.get q).link, outcome := (t.ports.get q).outcome }) ∧
    (s.resetState.lasting = some .por →
      exec .rst s = .next { s with resetState := { lasting := some .por, pinLow := true } }) ∧
    (s.resetState.lasting = some .rst → exec .rst s = .next s) ∧
    (∀ p, (s.ports.get p).link.selected = true → sdoPin s p = some false) ∧
    (∀ p, (s.ports.get p).link.selected = false → sdoPin s p = none)

/-! ### Laws that every step keeps -/

/-- Every law below holds right after reset. (Of the receiver's law, that no idle event is owed is the model's choice, log
18.) -/
def Obligations.TheLawsHoldAfterReset : Prop :=
  ∀ s : State, s = State.reset →
    QueuesBounded s ∧ ExecutorSound s ∧ ConfigHeld s ∧ PoolSound s ∧ StreamSound s ∧ ListsOrdered s ∧ ClaimsSound s ∧
    SessionsSound s ∧ ResolvedSound s ∧ ScenesSound s ∧ OutputSound s ∧ HoldsSound s ∧ FadeTimerSound s

/-- HEADLINE. No request or response queue ever holds more than 8 entries and no notice queue more than 16 (R163, R165); the
executor's current request stands at the head of its queue with room for its response, it waits only when no port is
eligible (R167, R168), and while a reset lasts nothing is in execution and no request waits (R183). (The empty queues of a
reset that lasts, log 16; the choice made at once, log 14.) -/
def Obligations.EveryStepKeepsTheQueuesAndTheExecutor : Prop :=
  ∀ s t : State, QueuesBounded s → ExecutorSound s → step s = .next t → QueuesBounded t ∧ ExecutorSound t

/-- HEADLINE. At least one of the three control ports holds the CONFIG right at every moment (R78, R81). -/
def Obligations.EveryStepKeepsAConfigHolder : Prop :=
  ∀ s t : State, ConfigHeld s → step s = .next t → ConfigHeld t

/-- HEADLINE. The pool (R6 to R8): the three ports' claims, the free entries, the STR claims and the reserved-unused entries
add to 192; STR claims and reserved-unused entries add to the window count; every count is the number of lists that hold a
claim of its source; every STR claim lies in the window. -/
def Obligations.EveryStepKeepsThePool : Prop :=
  ∀ s t : State, PoolSound s → step s = .next t → PoolSound t

/-- HEADLINE. No list ever holds two claims of one source, and every list stays ordered by the current priorities of the
owners, highest first (R3, R4, R21). -/
def Obligations.EveryStepKeepsTheListsOrdered : Prop :=
  ∀ s t : State, ListsOrdered s → step s = .next t → ListsOrdered t

/-- HEADLINE. Every claim stays as its state says (R1, R2, R43, R60): STEADY at its target, FADING or RELEASING between the
start of its fade and its target with elapsed below duration; a STR claim never FADING, and without notify and watch. -/
def Obligations.EveryStepKeepsTheClaimsSound : Prop :=
  ∀ s t : State, ClaimsSound s → step s = .next t → ClaimsSound t

/-- HEADLINE. The sessions (R63, R64, R70, R149): a DETACHED source owns no claim; a DETACHING one owns at least one and all
are RELEASING; a source that is not ATTACHED has its hold flag clear and its keepalive at 0; a hold timer runs under a set
flag. -/
def Obligations.EveryStepKeepsTheSessionsSound : Prop :=
  ∀ s t : State, PoolSound s → ListsOrdered s → SessionsSound s → step s = .next t → SessionsSound t

/-- HEADLINE. The resolved records (R28, R29, R31): an empty channel shows its park level clamped to its ceiling, with leader
none; any other is led by one of its claims, at that claim's level clamped to the ceiling; a LATEST channel by the first. (In
PEAK mode a re-sort that changes no order leaves the record as it was, R21, log 8; the law does not say which claim of the
top tier leads there.) -/
def Obligations.EveryStepKeepsTheResolvedRecords : Prop :=
  ∀ s t : State, ResolvedSound s → step s = .next t → ResolvedSound t

/-- HEADLINE. The entries of all DEFINED scenes plus the free scene entries equal 512, and every DEFINED scene holds 1 to 64
entries in strictly ascending channel order (R101). -/
def Obligations.EveryStepKeepsTheScenePool : Prop :=
  ∀ s t : State, ScenesSound s → step s = .next t → ScenesSound t

/-- HEADLINE. The receiver (R120, R124, R127 to R129): the stream is OFF exactly when the count is 0; the record stays in
its ranges; MUTED goes with an empty buffer, COLLECTING with a window and 1 to 131 words; the loss timer is stopped unless
LIVE; an idle event is owed only where the next word is sought at once; the counters stay at most 65535. (The clause on the
idle event follows R119 at a word and R135 at a CONFIG_STREAM; at a reset, where R138 sets the wait for a sample at 1, it is
the model's choice that the idle event owed before is dropped, log 18.) -/
def Obligations.EveryStepKeepsTheReceiverSound : Prop :=
  ∀ s t : State, StreamSound s → step s = .next t → StreamSound t

/-- HEADLINE. The output generator stays in its ranges (R139, R140, R143): position, clocks of the unit, both prescales,
accumulators, pulses, the hold limit and the started limits at 0 or 10 to 5000 ms, and every hold timer stopped or at 1 to
5000 ms. The step timer is STOPPED only when no claim is FADING or RELEASING (R45 to R47). -/
def Obligations.EveryStepKeepsTheOutputAndTheStepTimer : Prop :=
  ∀ s t : State, OutputSound s → HoldsSound s → FadeTimerSound s → step s = .next t →
    OutputSound t ∧ HoldsSound t ∧ FadeTimerSound t
end

