-- ==== Sys2Proof/Laws/State.lean ====
section
/-! SUPPORT. Reading a field after an update: one lemma per field per named update of the state, each true by rfl. -/

namespace Sys2Proof.Machine
open Sys2Proof Host

/-! ### Tables by port and by source -/

@[simp] theorem PerPort.get_set_self {α : Type} (t : PerPort α) (p : Port) (x : α) : (t.set p x).get p = x := by
  cases p <;> rfl

theorem PerPort.get_set_ne {α : Type} (t : PerPort α) {p q : Port} (x : α) (h : q ≠ p) : (t.set p x).get q = t.get q := by
  cases p <;> cases q <;> first | rfl | exact absurd rfl h

theorem PerPort.get_set {α : Type} (t : PerPort α) (p q : Port) (x : α) :
    (t.set p x).get q = if q = p then x else t.get q := by
  cases p <;> cases q <;> rfl

@[simp] theorem PerPort.get_map {α β : Type} (f : α → β) (t : PerPort α) (p : Port) : (t.map f).get p = f (t.get p) := by
  cases p <;> rfl

@[simp] theorem PerPort.set_get_self {α : Type} (t : PerPort α) (p : Port) : t.set p (t.get p) = t := by
  cases p <;> rfl

@[simp] theorem PerPort.set_set {α : Type} (t : PerPort α) (p : Port) (x y : α) : (t.set p x).set p y = t.set p y := by
  cases p <;> rfl

theorem PerPort.ext_get {α : Type} {t u : PerPort α} (h : ∀ p, t.get p = u.get p) : t = u := by
  cases t
  cases u
  simp only [PerPort.mk.injEq]
  exact ⟨h .cp0, h .cp1, h .cp2⟩

@[simp] theorem PerSource.get_ofFn {α : Type} (f : Source → α) (src : Source) : (PerSource.ofFn f).get src = f src := by
  cases src <;> rfl

/-! ### Channels -/

@[simp] theorem mem_allChannels (h : Chan) : h ∈ allChannels := List.mem_finRange h

@[simp] theorem mem_allPorts (p : Port) : p ∈ allPorts := by
  cases p <;> decide

@[simp] theorem get_ofFn {α : Type} (f : Chan → α) (h : Chan) : (Vector.ofFn f).get h = f h := by
  rw [Vector.get_eq_getElem, Vector.getElem_ofFn]

@[simp] theorem get_replicate {α : Type} {n : Nat} (x : α) (h : Fin n) : (Vector.replicate n x).get h = x := by
  rw [Vector.get_eq_getElem, Vector.getElem_replicate]

theorem ext_get {α : Type} {n : Nat} {v w : Vector α n} (h : ∀ i, v.get i = w.get i) : v = w := by
  ext i hi
  exact h ⟨i, hi⟩

theorem get_set {α : Type} {n : Nat} (v : Vector α n) (i j : Fin n) (x : α) :
    (v.set i x).get j = if j = i then x else v.get j := by
  rw [Vector.get_eq_getElem, Vector.getElem_set, Vector.get_eq_getElem]
  simp only [Fin.ext_iff, eq_comm]

/-! ### updPort -/

section updPort
variable (p q : Port) (f : PortInterface → PortInterface) (s : State)

@[simp] theorem updPort_ports : (updPort p f s).ports = s.ports.set p (f (s.ports.get p)) := rfl
@[simp] theorem updPort_executor : (updPort p f s).executor = s.executor := rfl
@[simp] theorem updPort_sessions : (updPort p f s).sessions = s.sessions := rfl
@[simp] theorem updPort_store : (updPort p f s).store = s.store := rfl
@[simp] theorem updPort_resolver : (updPort p f s).resolver = s.resolver := rfl
@[simp] theorem updPort_fades : (updPort p f s).fades = s.fades := rfl
@[simp] theorem updPort_scenes : (updPort p f s).scenes = s.scenes := rfl
@[simp] theorem updPort_stream : (updPort p f s).stream = s.stream := rfl
@[simp] theorem updPort_output : (updPort p f s).output = s.output := rfl
@[simp] theorem updPort_resetState : (updPort p f s).resetState = s.resetState := rfl
@[simp] theorem updPort_tickClocks : (updPort p f s).tickClocks = s.tickClocks := rfl
@[simp] theorem updPort_freeCount : (updPort p f s).freeCount = s.freeCount := rfl
@[simp] theorem updPort_pending : (updPort p f s).pending = s.pending := rfl

end updPort

/-! ### updSession -/

section updSession
variable (p : Port) (f : SourceRecord → SourceRecord) (s : State)

@[simp] theorem updSession_ports : (updSession p f s).ports = s.ports := rfl
@[simp] theorem updSession_executor : (updSession p f s).executor = s.executor := rfl
@[simp] theorem updSession_sessions : (updSession p f s).sessions = s.sessions.set p (f (s.sessions.get p)) := rfl
@[simp] theorem updSession_store : (updSession p f s).store = s.store := rfl
@[simp] theorem updSession_resolver : (updSession p f s).resolver = s.resolver := rfl
@[simp] theorem updSession_fades : (updSession p f s).fades = s.fades := rfl
@[simp] theorem updSession_scenes : (updSession p f s).scenes = s.scenes := rfl
@[simp] theorem updSession_stream : (updSession p f s).stream = s.stream := rfl
@[simp] theorem updSession_output : (updSession p f s).output = s.output := rfl
@[simp] theorem updSession_resetState : (updSession p f s).resetState = s.resetState := rfl
@[simp] theorem updSession_tickClocks : (updSession p f s).tickClocks = s.tickClocks := rfl
@[simp] theorem updSession_freeCount : (updSession p f s).freeCount = s.freeCount := rfl
@[simp] theorem updSession_pending : (updSession p f s).pending = s.pending := rfl

end updSession

/-! ### updHold and clearHold -/

section updHold
variable (p : Port) (f : Hold → Hold) (s : State)

@[simp] theorem updHold_ports : (updHold p f s).ports = s.ports := rfl
@[simp] theorem updHold_executor : (updHold p f s).executor = s.executor := rfl
@[simp] theorem updHold_sessions : (updHold p f s).sessions = s.sessions := rfl
@[simp] theorem updHold_store : (updHold p f s).store = s.store := rfl
@[simp] theorem updHold_resolver : (updHold p f s).resolver = s.resolver := rfl
@[simp] theorem updHold_fades : (updHold p f s).fades = s.fades := rfl
@[simp] theorem updHold_scenes : (updHold p f s).scenes = s.scenes := rfl
@[simp] theorem updHold_stream : (updHold p f s).stream = s.stream := rfl
@[simp] theorem updHold_output : (updHold p f s).output =
    { s.output with holds := s.output.holds.set p (f (s.output.holds.get p)) } := rfl
@[simp] theorem updHold_resetState : (updHold p f s).resetState = s.resetState := rfl
@[simp] theorem updHold_tickClocks : (updHold p f s).tickClocks = s.tickClocks := rfl
@[simp] theorem updHold_freeCount : (updHold p f s).freeCount = s.freeCount := rfl
@[simp] theorem updHold_pending : (updHold p f s).pending = s.pending := rfl

@[simp] theorem clearHold_ports : (clearHold p s).ports = s.ports := rfl
@[simp] theorem clearHold_executor : (clearHold p s).executor = s.executor := rfl
@[simp] theorem clearHold_sessions : (clearHold p s).sessions = s.sessions := rfl
@[simp] theorem clearHold_store : (clearHold p s).store = s.store := rfl
@[simp] theorem clearHold_resolver : (clearHold p s).resolver = s.resolver := rfl
@[simp] theorem clearHold_fades : (clearHold p s).fades = s.fades := rfl
@[simp] theorem clearHold_scenes : (clearHold p s).scenes = s.scenes := rfl
@[simp] theorem clearHold_stream : (clearHold p s).stream = s.stream := rfl
@[simp] theorem clearHold_output : (clearHold p s).output = { s.output with
    holds := s.output.holds.set p { s.output.holds.get p with flag := false, timer := none } } := rfl
@[simp] theorem clearHold_resetState : (clearHold p s).resetState = s.resetState := rfl
@[simp] theorem clearHold_tickClocks : (clearHold p s).tickClocks = s.tickClocks := rfl
@[simp] theorem clearHold_freeCount : (clearHold p s).freeCount = s.freeCount := rfl
@[simp] theorem clearHold_pending : (clearHold p s).pending = s.pending := rfl

end updHold

/-! ### updStream, mute, armIdle and seek -/

section updStream
variable (f : StreamReceiver → StreamReceiver) (s : State)

@[simp] theorem updStream_ports : (updStream f s).ports = s.ports := rfl
@[simp] theorem updStream_executor : (updStream f s).executor = s.executor := rfl
@[simp] theorem updStream_sessions : (updStream f s).sessions = s.sessions := rfl
@[simp] theorem updStream_store : (updStream f s).store = s.store := rfl
@[simp] theorem updStream_resolver : (updStream f s).resolver = s.resolver := rfl
@[simp] theorem updStream_fades : (updStream f s).fades = s.fades := rfl
@[simp] theorem updStream_scenes : (updStream f s).scenes = s.scenes := rfl
@[simp] theorem updStream_stream : (updStream f s).stream = f s.stream := rfl
@[simp] theorem updStream_output : (updStream f s).output = s.output := rfl
@[simp] theorem updStream_resetState : (updStream f s).resetState = s.resetState := rfl
@[simp] theorem updStream_tickClocks : (updStream f s).tickClocks = s.tickClocks := rfl
@[simp] theorem updStream_freeCount : (updStream f s).freeCount = s.freeCount := rfl
@[simp] theorem updStream_pending : (updStream f s).pending = s.pending := rfl

end updStream

section mute
variable (x : StreamReceiver)

@[simp] theorem mute_record : (mute x).record = x.record := rfl
@[simp] theorem mute_receiver : (mute x).receiver = .muted := rfl
@[simp] theorem mute_staging : (mute x).staging = [] := rfl
@[simp] theorem mute_counters : (mute x).counters = x.counters := rfl
@[simp] theorem mute_lossRemaining : (mute x).lossRemaining = x.lossRemaining := rfl
@[simp] theorem mute_idleArmed : (mute x).idleArmed = x.idleArmed := rfl
@[simp] theorem mute_awaitsHigh : (mute x).awaitsHigh = x.awaitsHigh := rfl

end mute

section armIdle
variable (b : Bool) (s : State)

@[simp] theorem armIdle_ports : (armIdle b s).ports = s.ports := rfl
@[simp] theorem armIdle_executor : (armIdle b s).executor = s.executor := rfl
@[simp] theorem armIdle_sessions : (armIdle b s).sessions = s.sessions := rfl
@[simp] theorem armIdle_store : (armIdle b s).store = s.store := rfl
@[simp] theorem armIdle_resolver : (armIdle b s).resolver = s.resolver := rfl
@[simp] theorem armIdle_fades : (armIdle b s).fades = s.fades := rfl
@[simp] theorem armIdle_scenes : (armIdle b s).scenes = s.scenes := rfl
@[simp] theorem armIdle_stream : (armIdle b s).stream = { s.stream with idleArmed := b } := rfl
@[simp] theorem armIdle_output : (armIdle b s).output = s.output := rfl
@[simp] theorem armIdle_resetState : (armIdle b s).resetState = s.resetState := rfl
@[simp] theorem armIdle_tickClocks : (armIdle b s).tickClocks = s.tickClocks := rfl
@[simp] theorem armIdle_freeCount : (armIdle b s).freeCount = s.freeCount := rfl
@[simp] theorem armIdle_pending : (armIdle b s).pending = s.pending := rfl

end armIdle

section seek
variable (b : Bool) (s : State)

@[simp] theorem seek_ports : (seek b s).ports = s.ports := rfl
@[simp] theorem seek_executor : (seek b s).executor = s.executor := rfl
@[simp] theorem seek_sessions : (seek b s).sessions = s.sessions := rfl
@[simp] theorem seek_store : (seek b s).store = s.store := rfl
@[simp] theorem seek_resolver : (seek b s).resolver = s.resolver := rfl
@[simp] theorem seek_fades : (seek b s).fades = s.fades := rfl
@[simp] theorem seek_scenes : (seek b s).scenes = s.scenes := rfl
@[simp] theorem seek_stream : (seek b s).stream = { s.stream with awaitsHigh := b } := rfl
@[simp] theorem seek_output : (seek b s).output = s.output := rfl
@[simp] theorem seek_resetState : (seek b s).resetState = s.resetState := rfl
@[simp] theorem seek_tickClocks : (seek b s).tickClocks = s.tickClocks := rfl
@[simp] theorem seek_freeCount : (seek b s).freeCount = s.freeCount := rfl
@[simp] theorem seek_pending : (seek b s).pending = s.pending := rfl

end seek

/-! ### updLink, latchOutcome and tickTimers -/

section updLink
variable (p : Port) (f : Link → Link) (o : SubmitOutcome) (s : State)

@[simp] theorem updLink_ports : (updLink p f s).ports =
    s.ports.set p { s.ports.get p with link := f (s.ports.get p).link } := rfl
@[simp] theorem updLink_executor : (updLink p f s).executor = s.executor := rfl
@[simp] theorem updLink_sessions : (updLink p f s).sessions = s.sessions := rfl
@[simp] theorem updLink_store : (updLink p f s).store = s.store := rfl
@[simp] theorem updLink_resolver : (updLink p f s).resolver = s.resolver := rfl
@[simp] theorem updLink_fades : (updLink p f s).fades = s.fades := rfl
@[simp] theorem updLink_scenes : (updLink p f s).scenes = s.scenes := rfl
@[simp] theorem updLink_stream : (updLink p f s).stream = s.stream := rfl
@[simp] theorem updLink_output : (updLink p f s).output = s.output := rfl
@[simp] theorem updLink_resetState : (updLink p f s).resetState = s.resetState := rfl
@[simp] theorem updLink_tickClocks : (updLink p f s).tickClocks = s.tickClocks := rfl
@[simp] theorem updLink_freeCount : (updLink p f s).freeCount = s.freeCount := rfl
@[simp] theorem updLink_pending : (updLink p f s).pending = s.pending := rfl

@[simp] theorem latchOutcome_ports : (latchOutcome p o s).ports =
    s.ports.set p { s.ports.get p with outcome := o } := rfl
@[simp] theorem latchOutcome_executor : (latchOutcome p o s).executor = s.executor := rfl
@[simp] theorem latchOutcome_sessions : (latchOutcome p o s).sessions = s.sessions := rfl
@[simp] theorem latchOutcome_store : (latchOutcome p o s).store = s.store := rfl
@[simp] theorem latchOutcome_resolver : (latchOutcome p o s).resolver = s.resolver := rfl
@[simp] theorem latchOutcome_fades : (latchOutcome p o s).fades = s.fades := rfl
@[simp] theorem latchOutcome_scenes : (latchOutcome p o s).scenes = s.scenes := rfl
@[simp] theorem latchOutcome_stream : (latchOutcome p o s).stream = s.stream := rfl
@[simp] theorem latchOutcome_output : (latchOutcome p o s).output = s.output := rfl
@[simp] theorem latchOutcome_resetState : (latchOutcome p o s).resetState = s.resetState := rfl
@[simp] theorem latchOutcome_tickClocks : (latchOutcome p o s).tickClocks = s.tickClocks := rfl
@[simp] theorem latchOutcome_freeCount : (latchOutcome p o s).freeCount = s.freeCount := rfl
@[simp] theorem latchOutcome_pending : (latchOutcome p o s).pending = s.pending := rfl

end updLink

/-! ### frameStart -/

section frameStart
variable (s : State)

@[simp] theorem frameStart_ports : (frameStart s).ports = s.ports := rfl
@[simp] theorem frameStart_executor : (frameStart s).executor = s.executor := rfl
@[simp] theorem frameStart_sessions : (frameStart s).sessions = s.sessions := rfl
@[simp] theorem frameStart_store : (frameStart s).store = s.store := rfl
@[simp] theorem frameStart_resolver : (frameStart s).resolver = s.resolver := rfl
@[simp] theorem frameStart_fades : (frameStart s).fades = s.fades := rfl
@[simp] theorem frameStart_scenes : (frameStart s).scenes = s.scenes := rfl
@[simp] theorem frameStart_stream : (frameStart s).stream = s.stream := rfl
@[simp] theorem frameStart_resetState : (frameStart s).resetState = s.resetState := rfl
@[simp] theorem frameStart_tickClocks : (frameStart s).tickClocks = s.tickClocks := rfl
@[simp] theorem frameStart_freeCount : (frameStart s).freeCount = s.freeCount := rfl
@[simp] theorem frameStart_pending : (frameStart s).pending = s.pending := rfl
@[simp] theorem frameStart_holds : (frameStart s).output.holds = s.output.holds := rfl
@[simp] theorem frameStart_holdLimit : (frameStart s).output.holdLimit = s.output.holdLimit := rfl
@[simp] theorem frameStart_prescaleHeld : (frameStart s).output.prescaleHeld = s.output.prescaleHeld := rfl
@[simp] theorem frameStart_prescaleApplied : (frameStart s).output.prescaleApplied = s.output.prescaleHeld := rfl
@[simp] theorem frameStart_position : (frameStart s).output.position = 0 := rfl
@[simp] theorem frameStart_unitClocks : (frameStart s).output.unitClocks = 0 := rfl

end frameStart

end Sys2Proof.Machine
end

