-- ==== Sys2Proof/Laws/Ops.lean ====
section
/-! SUPPORT. What the shared operations of the executor and of the notice queues can do, said once: notices placed, the choice, the
end of an execution. -/

namespace Sys2Proof.Machine
open Sys2Proof Host

/-! ### Notices (R165) -/

section raise
variable (ns : List Addressed) (s : State)

@[simp] theorem raise_executor : (raise ns s).executor = s.executor := rfl
@[simp] theorem raise_sessions : (raise ns s).sessions = s.sessions := rfl
@[simp] theorem raise_store : (raise ns s).store = s.store := rfl
@[simp] theorem raise_resolver : (raise ns s).resolver = s.resolver := rfl
@[simp] theorem raise_fades : (raise ns s).fades = s.fades := rfl
@[simp] theorem raise_scenes : (raise ns s).scenes = s.scenes := rfl
@[simp] theorem raise_stream : (raise ns s).stream = s.stream := rfl
@[simp] theorem raise_output : (raise ns s).output = s.output := rfl
@[simp] theorem raise_resetState : (raise ns s).resetState = s.resetState := rfl
@[simp] theorem raise_tickClocks : (raise ns s).tickClocks = s.tickClocks := rfl
@[simp] theorem raise_freeCount : (raise ns s).freeCount = s.freeCount := rfl
@[simp] theorem raise_pending : (raise ns s).pending = s.pending := rfl

end raise

/-- Several notices placed in one port's queue, in order. -/
def placeAll (ns : List Notice) (pi : PortInterface) : PortInterface := ns.foldl (fun pi n => placeNotice n pi) pi

@[simp] theorem placeAll_nil (pi : PortInterface) : placeAll [] pi = pi := rfl

@[simp] theorem placeAll_cons (n : Notice) (ns : List Notice) (pi : PortInterface) :
    placeAll (n :: ns) pi = placeAll ns (placeNotice n pi) := rfl

@[simp] theorem placeNotice_link (n : Notice) (pi : PortInterface) : (placeNotice n pi).link = pi.link := by
  unfold placeNotice; split <;> rfl

@[simp] theorem placeNotice_outcome (n : Notice) (pi : PortInterface) : (placeNotice n pi).outcome = pi.outcome := by
  unfold placeNotice; split <;> rfl

@[simp] theorem placeNotice_requests (n : Notice) (pi : PortInterface) : (placeNotice n pi).requests = pi.requests := by
  unfold placeNotice; split <;> rfl

@[simp] theorem placeNotice_responses (n : Notice) (pi : PortInterface) : (placeNotice n pi).responses = pi.responses := by
  unfold placeNotice; split <;> rfl

@[simp] theorem placeAll_link (ns : List Notice) (pi : PortInterface) : (placeAll ns pi).link = pi.link := by
  induction ns generalizing pi with
  | nil => rfl
  | cons n ns ih => simp [ih]

@[simp] theorem placeAll_outcome (ns : List Notice) (pi : PortInterface) : (placeAll ns pi).outcome = pi.outcome := by
  induction ns generalizing pi with
  | nil => rfl
  | cons n ns ih => simp [ih]

@[simp] theorem placeAll_requests (ns : List Notice) (pi : PortInterface) : (placeAll ns pi).requests = pi.requests := by
  induction ns generalizing pi with
  | nil => rfl
  | cons n ns ih => simp [ih]

@[simp] theorem placeAll_responses (ns : List Notice) (pi : PortInterface) : (placeAll ns pi).responses = pi.responses := by
  induction ns generalizing pi with
  | nil => rfl
  | cons n ns ih => simp [ih]

/-- A notice placed in a queue with room (R165). -/
theorem placeNotice_room (n : Notice) {pi : PortInterface} (h : pi.notices.length < 16) :
    placeNotice n pi = { pi with notices := pi.notices ++ [n] } := if_pos h

/-- A notice that finds 16 (R165). -/
theorem placeNotice_full (n : Notice) {pi : PortInterface} (h : ¬ pi.notices.length < 16) :
    placeNotice n pi = { pi with lost := min 255 (pi.lost + 1) } := if_neg h

/-- The queue after several placements: its 16 oldest (R165). -/
theorem placeAll_notices (ns : List Notice) (pi : PortInterface) (h : pi.notices.length ≤ 16) :
    (placeAll ns pi).notices = (pi.notices ++ ns).take 16 := by
  induction ns generalizing pi with
  | nil => simp [List.take_of_length_le h]
  | cons n ns ih =>
    by_cases hlt : pi.notices.length < 16
    · rw [placeAll_cons, placeNotice_room n hlt, ih _ (by simp; omega)]
      simp
    · have h16 : pi.notices.length = 16 := by omega
      rw [placeAll_cons, placeNotice_full n hlt, ih _ (by exact h)]
      simp [h16]

/-- The lost-notice count after several placements (R165). -/
theorem placeAll_lost (ns : List Notice) (pi : PortInterface) (h : pi.notices.length ≤ 16) (hl : pi.lost ≤ 255) :
    (placeAll ns pi).lost = min 255 (pi.lost + (pi.notices.length + ns.length - 16)) := by
  induction ns generalizing pi with
  | nil => simp; omega
  | cons n ns ih =>
    by_cases hlt : pi.notices.length < 16
    · rw [placeAll_cons, placeNotice_room n hlt, ih _ (by simp; omega) (by exact hl)]
      simp only [List.length_append, List.length_cons, List.length_nil]
      omega
    · rw [placeAll_cons, placeNotice_full n hlt, ih _ (by exact h) (by simp only; omega)]
      simp only [List.length_cons]
      omega

@[simp] theorem noticesFor_nil (q : Port) : noticesFor q [] = [] := rfl

theorem noticesFor_cons (q : Port) (x : Addressed) (ns : List Addressed) :
    noticesFor q (x :: ns) = if x.1 = q then x.2 :: noticesFor q ns else noticesFor q ns := by
  by_cases h : x.1 = q <;> simp [noticesFor, h]

@[simp] theorem noticesFor_append (q : Port) (xs ys : List Addressed) :
    noticesFor q (xs ++ ys) = noticesFor q xs ++ noticesFor q ys := by
  simp [noticesFor]

/-- Placing addressed notices places each port's own, in their order. -/
theorem raisePorts_get (ns : List Addressed) (t : PerPort PortInterface) (q : Port) :
    (raisePorts ns t).get q = placeAll (noticesFor q ns) (t.get q) := by
  unfold raisePorts
  induction ns generalizing t with
  | nil => rfl
  | cons x ns ih =>
    rw [List.foldl_cons, ih, noticesFor_cons, PerPort.get_set]
    by_cases h : x.1 = q
    · simp [h]
    · simp [h, Ne.symm h]

@[simp] theorem raise_port (ns : List Addressed) (s : State) (q : Port) :
    (raise ns s).ports.get q = placeAll (noticesFor q ns) (s.ports.get q) := raisePorts_get ns s.ports q

@[simp] theorem raise_nil (s : State) : raise [] s = s := rfl

theorem raise_append (xs ys : List Addressed) (s : State) : raise (xs ++ ys) s = raise ys (raise xs s) := by
  simp only [raise, raisePorts, List.foldl_append]

/-- What raising notices leaves, of a state whose queues are in bounds. -/
theorem raise_placed (ns : List Addressed) (s : State) (h : QueuesBounded s) : Placed ns s (raise ns s) := by
  intro q
  obtain ⟨_, _, hn, hl⟩ := h q
  rw [raise_port]
  exact ⟨placeAll_notices _ _ hn, placeAll_lost _ _ hn hl⟩

/-- The notices of a class for its subscribers, seen from one port: one if it receives the class, else none. -/
theorem noticesFor_toSubscribers (q : Port) (c : NoticeClass) (n : Notice) (s : State) :
    noticesFor q (toSubscribers c n s) = if receives c s q then [n] else [] := by
  unfold noticesFor toSubscribers allPorts
  cases q <;> cases h0 : receives c s .cp0 <;> cases h1 : receives c s .cp1 <;> cases h2 : receives c s .cp2 <;>
    simp [h0, h1, h2]

/-! ### The choice (R167) -/

theorem chooseNext_eq (s : State) : chooseNext s = { s with executor := (chooseNext s).executor } := by
  unfold chooseNext
  repeat' split
  all_goals rfl

section chooseNext
variable (s : State)

@[simp] theorem chooseNext_ports : (chooseNext s).ports = s.ports := by rw [chooseNext_eq]
@[simp] theorem chooseNext_sessions : (chooseNext s).sessions = s.sessions := by rw [chooseNext_eq]
@[simp] theorem chooseNext_store : (chooseNext s).store = s.store := by rw [chooseNext_eq]
@[simp] theorem chooseNext_resolver : (chooseNext s).resolver = s.resolver := by rw [chooseNext_eq]
@[simp] theorem chooseNext_fades : (chooseNext s).fades = s.fades := by rw [chooseNext_eq]
@[simp] theorem chooseNext_scenes : (chooseNext s).scenes = s.scenes := by rw [chooseNext_eq]
@[simp] theorem chooseNext_stream : (chooseNext s).stream = s.stream := by rw [chooseNext_eq]
@[simp] theorem chooseNext_output : (chooseNext s).output = s.output := by rw [chooseNext_eq]
@[simp] theorem chooseNext_resetState : (chooseNext s).resetState = s.resetState := by rw [chooseNext_eq]
@[simp] theorem chooseNext_tickClocks : (chooseNext s).tickClocks = s.tickClocks := by rw [chooseNext_eq]
@[simp] theorem chooseNext_freeCount : (chooseNext s).freeCount = s.freeCount := by rw [chooseNext_eq]
@[simp] theorem chooseNext_pending : (chooseNext s).pending = s.pending := by rw [chooseNext_eq]

end chooseNext

/-- Eligibility reads the queues alone. -/
theorem eligible_congr {s t : State} (h : s.ports = t.ports) (p : Port) : eligible s p = eligible t p := by
  unfold eligible
  rw [h]

theorem choiceFrom_congr {s t : State} (h : s.ports = t.ports) (last : Port) : choiceFrom last s = choiceFrom last t := by
  have : eligible s = eligible t := funext (eligible_congr h)
  simp only [choiceFrom, this]

/-- With no request in execution and no reset lasting, the executor makes its choice. -/
theorem chooseNext_choice (s : State) (hr : s.resetState.lasting = none) (hc : s.executor.current = none) :
    NextChoice s.executor.lastServed (chooseNext s) := by
  unfold NextChoice
  rw [choiceFrom_congr (chooseNext_ports s)]
  unfold chooseNext resetLasts choiceFrom
  rw [hr, hc]
  cases h : (searchOrder s.executor.lastServed).find? (eligible s)
  · change s.executor = _
    cases he : s.executor
    simp_all
  · rfl

/-- With a request in execution the executor makes no choice (R168). -/
theorem chooseNext_busy (s : State) {p : Port} (hc : s.executor.current = some p) : chooseNext s = s := by
  unfold chooseNext
  rw [hc]
  split <;> rfl

/-- While a reset lasts the executor makes no choice (R183). -/
theorem chooseNext_reset (s : State) {k : LastingReset} (hr : s.resetState.lasting = some k) : chooseNext s = s := by
  unfold chooseNext resetLasts
  rw [hr]
  rfl

/-! ### Executions (R168, R169) -/

theorem inExecution_iff (s : State) (p : Port) (r : Request) : inExecution s = some (p, r) ↔ Executing p r s := by
  unfold inExecution Executing resetLasts
  cases hr : s.resetState.lasting with
  | some k => simp
  | none =>
    cases hc : s.executor.current with
    | none => simp
    | some q =>
      by_cases hqp : q = p
      · subst hqp
        cases hq : (s.ports.get q).requests <;> simp [hq]
      · cases hq : (s.ports.get q).requests <;> simp [hq, hqp]

theorem earlyRefusal_none {k : Kind} {p : Port} {r : Request} {s : State} (h : Admitted k p r s) :
    earlyRefusal k p r s = none := by
  obtain ⟨_, _, hl, hr, hs⟩ := h
  simp [earlyRefusal, hl, hr, hs]

/-- An admitted request is executed: what `run` comes to is its answer. -/
theorem execute_admitted {k : Kind} {p : Port} {r : Request} {s : State} (h : Admitted k p r s)
    (run : Port → Request → State → Reply) : execute k run s = complete p r (run p r s) := by
  simp only [execute, checked, (inExecution_iff s p r).2 h.1, earlyRefusal_none h, h.2.1, if_true]

/-- A request that fails an early check is answered with its status, and `run` is not asked. -/
theorem execute_refused {k : Kind} {p : Port} {r : Request} {s : State} {st : Status} (he : Executing p r s)
    (hk : r.kind = k.code) (h : earlyRefusal k p r s = some st) (run : Port → Request → State → Reply) :
    execute k run s = complete p r (refuse st s) := by
  simp only [execute, checked, (inExecution_iff s p r).2 he, h, hk, if_true]

/-- `execute` either changes nothing or completes an execution. -/
theorem execute_cases (k : Kind) (run : Port → Request → State → Reply) (s : State) :
    execute k run s = s ∨
    ∃ p r, Executing p r s ∧ r.kind = k.code ∧
      ((∃ st, execute k run s = complete p r (refuse st s)) ∨
        (Admitted k p r s ∧ execute k run s = complete p r (run p r s))) := by
  unfold execute
  cases hx : inExecution s with
  | none => exact Or.inl rfl
  | some x =>
    obtain ⟨p, r⟩ := x
    have he := (inExecution_iff s p r).1 hx
    by_cases hk : r.kind = k.code
    · right
      refine ⟨p, r, he, hk, ?_⟩
      simp only [hk, if_true]
      unfold checked
      cases hr : earlyRefusal k p r s with
      | some st => exact Or.inl ⟨st, rfl⟩
      | none =>
        right
        refine ⟨⟨he, hk, ?_⟩, rfl⟩
        unfold earlyRefusal at hr
        cases hl : lengthFits k r
        · simp [hl] at hr
        · cases hg : rightHeld k (s.sessions.get p).rights
          · simp [hl, hg] at hr
          · simpa [hl, hg] using hr
    · left
      simp [hk]

/-- The end of an execution, as one update of ports and executor. -/
theorem complete_eq (p : Port) (r : Request) (y : Reply) :
    complete p r y = { y.state with ports := (complete p r y).ports, executor := (complete p r y).executor } := by
  unfold complete
  rw [chooseNext_eq]
  rfl

section complete
variable (p : Port) (r : Request) (y : Reply)

@[simp] theorem complete_ports : (complete p r y).ports = y.state.ports.set p
    { y.state.ports.get p with
      requests := (y.state.ports.get p).requests.tail
      responses := (y.state.ports.get p).responses ++
        [{ kind := r.kind, tag := r.tag, status := y.status, body := y.body }] } := by
  simp [complete]

@[simp] theorem complete_sessions : (complete p r y).sessions = y.state.sessions := by rw [complete_eq]
@[simp] theorem complete_store : (complete p r y).store = y.state.store := by rw [complete_eq]
@[simp] theorem complete_resolver : (complete p r y).resolver = y.state.resolver := by rw [complete_eq]
@[simp] theorem complete_fades : (complete p r y).fades = y.state.fades := by rw [complete_eq]
@[simp] theorem complete_scenes : (complete p r y).scenes = y.state.scenes := by rw [complete_eq]
@[simp] theorem complete_stream : (complete p r y).stream = y.state.stream := by rw [complete_eq]
@[simp] theorem complete_output : (complete p r y).output = y.state.output := by rw [complete_eq]
@[simp] theorem complete_resetState : (complete p r y).resetState = y.state.resetState := by rw [complete_eq]
@[simp] theorem complete_tickClocks : (complete p r y).tickClocks = y.state.tickClocks := by rw [complete_eq]
@[simp] theorem complete_freeCount : (complete p r y).freeCount = y.state.freeCount := by rw [complete_eq]
@[simp] theorem complete_pending : (complete p r y).pending = y.state.pending := by rw [complete_eq]

/-- The choice at the end of an execution, of a state in which no reset lasts. -/
theorem complete_choice (hr : y.state.resetState.lasting = none) :
    NextChoice y.state.executor.lastServed (complete p r y) :=
  chooseNext_choice _ hr rfl

end complete

/-- The block's change left the queues, links and outcomes alone, whatever notices it raised: then the end of the execution is
the answer the rules give. -/
theorem complete_answered {p : Port} {r : Request} {s : State} {y : Reply} (hr : y.state.resetState.lasting = none)
    (hx : y.state.executor = s.executor)
    (hq : ∀ q, (y.state.ports.get q).requests = (s.ports.get q).requests ∧
      (y.state.ports.get q).responses = (s.ports.get q).responses ∧ (y.state.ports.get q).link = (s.ports.get q).link ∧
      (y.state.ports.get q).outcome = (s.ports.get q).outcome) :
    Answered p r y.status y.body s (complete p r y) where
  request := by simp [hq p]
  response := by simp [hq p]
  otherPorts q hne := by simp [PerPort.get_set_ne _ _ hne, hq q]
  links q := by
    rw [complete_ports, PerPort.get_set]
    by_cases h : q = p
    · subst h
      simp [hq q]
    · simp [h, hq q]
  choice := by
    have h := complete_choice p r y hr
    rwa [hx] at h

/-- The notices and lost-notice counts at the end of an execution are those the block's change left. -/
theorem complete_notices (p : Port) (r : Request) (y : Reply) (q : Port) :
    ((complete p r y).ports.get q).notices = (y.state.ports.get q).notices ∧
    ((complete p r y).ports.get q).lost = (y.state.ports.get q).lost := by
  rw [complete_ports, PerPort.get_set]
  by_cases h : q = p
  · subst h
    simp
  · simp [h]

end Sys2Proof.Machine
end

