-- ==== Sys2Proof/Laws/Lists.lean ====
section
/-! SUPPORT. The operations on one claim list: what finding, removing, placing and changing a claim do to each other, and that they
keep a list ordered and free of second claims of a source (R3, R4, R5). -/

namespace Sys2Proof.Machine
open Sys2Proof Host

/-! ### Removing and finding -/

@[simp] theorem findClaim_nil (src : Source) : findClaim src [] = none := rfl

theorem findClaim_cons (src : Source) (c : Claim) (l : List Claim) :
    findClaim src (c :: l) = if c.source = src then some c else findClaim src l := by
  by_cases h : c.source = src <;> simp [findClaim, h]

@[simp] theorem removeClaim_nil (src : Source) : removeClaim src [] = [] := rfl

theorem removeClaim_cons (src : Source) (c : Claim) (l : List Claim) :
    removeClaim src (c :: l) = if c.source = src then removeClaim src l else c :: removeClaim src l := by
  by_cases h : c.source = src <;> simp [removeClaim, h]

theorem findClaim_source {src : Source} {l : List Claim} {c : Claim} (h : findClaim src l = some c) : c.source = src := by
  have := List.find?_some h
  simpa using this

theorem findClaim_mem {src : Source} {l : List Claim} {c : Claim} (h : findClaim src l = some c) : c ∈ l :=
  List.mem_of_find?_eq_some h

theorem mem_removeClaim {src : Source} {l : List Claim} {c : Claim} :
    c ∈ removeClaim src l ↔ c ∈ l ∧ c.source ≠ src := by
  simp [removeClaim]

@[simp] theorem removeClaim_idem (src : Source) (l : List Claim) : removeClaim src (removeClaim src l) = removeClaim src l := by
  simp [removeClaim]

@[simp] theorem findClaim_removeClaim (src : Source) (l : List Claim) : findClaim src (removeClaim src l) = none := by
  induction l with
  | nil => rfl
  | cons c l ih =>
    rw [removeClaim_cons]
    split
    · exact ih
    · next h => rw [findClaim_cons, if_neg h, ih]

theorem findClaim_removeClaim_ne {src other : Source} (hne : other ≠ src) (l : List Claim) :
    findClaim other (removeClaim src l) = findClaim other l := by
  induction l with
  | nil => rfl
  | cons c l ih =>
    rw [removeClaim_cons, findClaim_cons]
    split
    · next h => rw [ih, if_neg (by rw [h]; exact hne.symm)]
    · rw [findClaim_cons, ih]

theorem holds_iff {src : Source} {l : List Claim} : holds src l = true ↔ ∃ c ∈ l, c.source = src := by
  simp [holds]

theorem holds_eq_find (src : Source) (l : List Claim) : holds src l = (findClaim src l).isSome := by
  induction l with
  | nil => rfl
  | cons c l ih =>
    rw [findClaim_cons]
    by_cases h : c.source = src
    · simp [holds, h]
    · simp [h, ← ih, holds]

theorem findClaim_eq_none {src : Source} {l : List Claim} : findClaim src l = none ↔ holds src l = false := by
  rw [holds_eq_find]
  cases findClaim src l <;> simp

theorem removeClaim_of_not_holds {src : Source} {l : List Claim} (h : holds src l = false) : removeClaim src l = l := by
  simp only [holds, List.any_eq_false, beq_iff_eq] at h
  simp only [removeClaim, List.filter_eq_self, bne_iff_ne]
  exact h

@[simp] theorem holds_removeClaim (src : Source) (l : List Claim) : holds src (removeClaim src l) = false := by
  rw [← findClaim_eq_none]
  simp

theorem holds_removeClaim_ne {src other : Source} (hne : other ≠ src) (l : List Claim) :
    holds other (removeClaim src l) = holds other l := by
  rw [holds_eq_find, holds_eq_find, findClaim_removeClaim_ne hne]

/-! ### Placing (R4, R5) -/

theorem mem_placeClaim {prio : Source → Fin 8} {c d : Claim} {l : List Claim} :
    d ∈ placeClaim prio c l ↔ d = c ∨ d ∈ l := by
  induction l with
  | nil => simp [placeClaim]
  | cons e l ih =>
    unfold placeClaim
    split
    · simp only [List.mem_cons, ih]
      tauto
    · simp only [List.mem_cons]

theorem removeClaim_placeClaim (prio : Source → Fin 8) {src : Source} {c : Claim} (hc : c.source = src) (l : List Claim) :
    removeClaim src (placeClaim prio c l) = removeClaim src l := by
  induction l with
  | nil => simp [placeClaim, removeClaim_cons, hc]
  | cons d l ih =>
    unfold placeClaim
    split
    · rw [removeClaim_cons, ih, removeClaim_cons]
    · rw [removeClaim_cons, if_pos hc]

theorem findClaim_placeClaim (prio : Source → Fin 8) {src : Source} {c : Claim} (hc : c.source = src) {l : List Claim}
    (hl : holds src l = false) : findClaim src (placeClaim prio c l) = some c := by
  induction l with
  | nil => simp [placeClaim, findClaim_cons, hc]
  | cons d l ih =>
    have hd : d.source ≠ src ∧ holds src l = false := by simpa [holds] using hl
    unfold placeClaim
    split
    · rw [findClaim_cons, if_neg hd.1, ih hd.2]
    · rw [findClaim_cons, if_pos hc]

theorem findClaim_placeClaim_ne (prio : Source → Fin 8) {src : Source} {c : Claim} (hc : c.source ≠ src) (l : List Claim) :
    findClaim src (placeClaim prio c l) = findClaim src l := by
  induction l with
  | nil => simp [placeClaim, findClaim_cons, hc]
  | cons d l ih =>
    unfold placeClaim
    split
    · rw [findClaim_cons, ih, findClaim_cons]
    · rw [findClaim_cons, if_neg hc]

theorem holds_placeClaim (prio : Source → Fin 8) (src : Source) (c : Claim) (l : List Claim) :
    holds src (placeClaim prio c l) = (decide (c.source = src) || holds src l) := by
  rw [Bool.eq_iff_iff, holds_iff]
  simp only [mem_placeClaim, Bool.or_eq_true, decide_eq_true_eq, holds_iff]
  constructor
  · rintro ⟨d, rfl | hd, h⟩
    · exact Or.inl h
    · exact Or.inr ⟨d, hd, h⟩
  · rintro (h | ⟨d, hd, h⟩)
    · exact ⟨c, Or.inl rfl, h⟩
    · exact ⟨d, Or.inr hd, h⟩

theorem placeClaim_perm (prio : Source → Fin 8) (c : Claim) (l : List Claim) : (placeClaim prio c l).Perm (c :: l) := by
  induction l with
  | nil => exact List.Perm.refl _
  | cons d l ih =>
    unfold placeClaim
    split
    · exact (ih.cons d).trans (List.Perm.swap c d l)
    · exact List.Perm.refl _

/-- The order of R4. -/
def Ordered (prio : Source → Fin 8) (l : List Claim) : Prop := l.Pairwise fun c d => prio d.source ≤ prio c.source

/-- At most one claim of a source (R3). -/
def OnePerSource (l : List Claim) : Prop := (l.map (·.source)).Nodup

theorem placeClaim_ordered {prio : Source → Fin 8} {l : List Claim} (h : Ordered prio l) (c : Claim) :
    Ordered prio (placeClaim prio c l) := by
  induction l with
  | nil => simp [placeClaim, Ordered]
  | cons d l ih =>
    unfold Ordered at h ih ⊢
    rw [List.pairwise_cons] at h
    unfold placeClaim
    split
    · next hlt =>
      rw [List.pairwise_cons]
      refine ⟨fun e he => ?_, ih h.2⟩
      rcases mem_placeClaim.1 he with rfl | he
      · exact le_of_lt hlt
      · exact h.1 e he
    · next hge =>
      have hdc : prio d.source ≤ prio c.source := not_lt.1 hge
      rw [List.pairwise_cons]
      refine ⟨fun e he => ?_, List.pairwise_cons.2 h⟩
      rcases List.mem_cons.1 he with rfl | he
      · exact hdc
      · exact le_trans (h.1 e he) hdc

theorem placeClaim_atFront {prio : Source → Fin 8} {l : List Claim} (h : Ordered prio l) (c : Claim) :
    AtFrontOfTier prio c.source (placeClaim prio c l) := by
  induction l with
  | nil => exact ⟨[], c, [], rfl, rfl, by simp, by simp⟩
  | cons d l ih =>
    unfold Ordered at h ih
    rw [List.pairwise_cons] at h
    unfold placeClaim
    split
    · next hlt =>
      obtain ⟨before, c', after, hl, hs, hb, ha⟩ := ih h.2
      refine ⟨d :: before, c', after, by rw [hl]; rfl, hs, fun e he => ?_, ha⟩
      rcases List.mem_cons.1 he with rfl | he
      · exact hlt
      · exact hb e he
    · next hge =>
      have hdc : prio d.source ≤ prio c.source := not_lt.1 hge
      refine ⟨[], c, d :: l, rfl, rfl, by simp, fun e he => ?_⟩
      rcases List.mem_cons.1 he with rfl | he
      · exact hdc
      · exact le_trans (h.1 e he) hdc

theorem removeClaim_ordered {prio : Source → Fin 8} {l : List Claim} (h : Ordered prio l) (src : Source) :
    Ordered prio (removeClaim src l) := List.Pairwise.filter _ h

theorem removeClaim_onePerSource {l : List Claim} (h : OnePerSource l) (src : Source) : OnePerSource (removeClaim src l) :=
  List.Nodup.sublist (List.Sublist.map _ List.filter_sublist) h

theorem placeClaim_onePerSource {prio : Source → Fin 8} {l : List Claim} (h : OnePerSource l) {c : Claim}
    (hc : holds c.source l = false) : OnePerSource (placeClaim prio c l) := by
  unfold OnePerSource
  rw [((placeClaim_perm prio c l).map _).nodup_iff, List.map_cons, List.nodup_cons]
  refine ⟨?_, h⟩
  intro hm
  obtain ⟨d, hd, hs⟩ := List.mem_map.1 hm
  have : holds c.source l = true := holds_iff.2 ⟨d, hd, hs⟩
  rw [hc] at this
  exact Bool.noConfusion this

/-! ### Changing a claim where it stands -/

/-- The change keeps a claim's source. -/
def KeepsSource (f : Claim → Claim) : Prop := ∀ c, (f c).source = c.source

theorem map_source_mapClaim {f : Claim → Claim} (hf : KeepsSource f) (src : Source) (l : List Claim) :
    (mapClaim src f l).map (·.source) = l.map (·.source) := by
  simp only [mapClaim, List.map_map]
  apply List.map_congr_left
  intro c _
  simp only [Function.comp]
  split <;> simp [hf c]

theorem findClaim_mapClaim {f : Claim → Claim} (hf : KeepsSource f) (src : Source) (l : List Claim) :
    findClaim src (mapClaim src f l) = (findClaim src l).map f := by
  induction l with
  | nil => rfl
  | cons c l ih =>
    simp only [mapClaim, List.map_cons] at ih ⊢
    rw [findClaim_cons, findClaim_cons]
    by_cases h : c.source = src
    · simp [h, hf c]
    · simp [h, ih]

theorem removeClaim_mapClaim {f : Claim → Claim} (hf : KeepsSource f) (src : Source) (l : List Claim) :
    removeClaim src (mapClaim src f l) = removeClaim src l := by
  induction l with
  | nil => rfl
  | cons c l ih =>
    simp only [mapClaim, List.map_cons] at ih ⊢
    rw [removeClaim_cons, removeClaim_cons, ih]
    by_cases h : c.source = src
    · simp [h, hf c]
    · simp [h]

theorem holds_eq_of_sources {l m : List Claim} (h : l.map (·.source) = m.map (·.source)) (src : Source) :
    holds src l = holds src m := by
  have hl : ∀ k : List Claim, holds src k = (k.map (·.source)).any (· == src) := by
    intro k
    simp [holds, List.any_map, Function.comp_def]
  rw [hl, hl, h]

theorem ordered_of_sources {prio : Source → Fin 8} {l m : List Claim} (h : l.map (·.source) = m.map (·.source))
    (hm : Ordered prio m) : Ordered prio l := by
  have hl : ∀ k : List Claim, Ordered prio k ↔ (k.map (·.source)).Pairwise fun a b => prio b ≤ prio a := by
    intro k
    simp [Ordered, List.pairwise_map]
  rw [hl] at hm ⊢
  rwa [h]

/-- With one claim per source, finding it is being it. -/
theorem findClaim_of_mem {l : List Claim} (h : OnePerSource l) {c : Claim} (hc : c ∈ l) : findClaim c.source l = some c := by
  induction l with
  | nil => simp at hc
  | cons d l ih =>
    unfold OnePerSource at h ih
    rw [List.map_cons, List.nodup_cons] at h
    rw [findClaim_cons]
    rcases List.mem_cons.1 hc with rfl | hc
    · simp
    · have hne : d.source ≠ c.source := by
        intro he
        exact h.1 (he ▸ List.mem_map_of_mem hc)
      rw [if_neg hne, ih h.2 hc]

/-! ### Resolution (R28 to R31) -/

@[simp] theorem resolve_nil (cfg : ChannelConfig) (prio : Source → Fin 8) :
    resolve cfg prio [] = { level := clamp cfg.ceiling cfg.park, leader := none } := rfl

theorem clamp_le (ceiling x : Level) : clamp ceiling x ≤ ceiling := by
  unfold clamp
  split
  · assumption
  · exact BitVec.le_refl _

theorem greatest_mem (best : Claim) (l : List Claim) : greatest best l = best ∨ greatest best l ∈ l := by
  induction l generalizing best with
  | nil => exact Or.inl rfl
  | cons d l ih =>
    unfold greatest
    split
    · rcases ih d with h | h
      · exact Or.inr (by rw [h]; exact List.mem_cons_self)
      · exact Or.inr (List.mem_cons_of_mem _ h)
    · rcases ih best with h | h
      · exact Or.inl h
      · exact Or.inr (List.mem_cons_of_mem _ h)

/-- A leader is a claim of the list. -/
theorem leaderOf_mem {mode : MergeMode} {prio : Source → Fin 8} {l : List Claim} {c : Claim}
    (h : leaderOf mode prio l = some c) : c ∈ l := by
  cases l with
  | nil => simp [leaderOf, topTier] at h
  | cons d l =>
    have hsub : ∀ e, e ∈ l.takeWhile (fun x => prio x.source == prio d.source) → e ∈ l :=
      fun e he => (List.takeWhile_sublist _).subset he
    cases mode with
    | latest =>
      simp only [leaderOf, topTier, Option.some.injEq] at h
      exact h ▸ List.mem_cons_self
    | peak =>
      simp only [leaderOf, topTier, Option.some.injEq] at h
      rcases greatest_mem d (l.takeWhile fun x => prio x.source == prio d.source) with hg | hg
      · rw [← h, hg]
        exact List.mem_cons_self
      · rw [← h]
        exact List.mem_cons_of_mem _ (hsub _ hg)

/-- A list that is not empty has a leader (R29). -/
theorem leaderOf_isSome (mode : MergeMode) (prio : Source → Fin 8) {l : List Claim} (h : l ≠ []) :
    ∃ c, leaderOf mode prio l = some c := by
  cases l with
  | nil => exact absurd rfl h
  | cons d l => cases mode <;> exact ⟨_, rfl⟩

theorem resolve_level_le (cfg : ChannelConfig) (prio : Source → Fin 8) (l : List Claim) :
    (resolve cfg prio l).level ≤ cfg.ceiling := by
  unfold resolve
  split <;> exact clamp_le _ _

/-- The resolved record of a list that is not empty: the leader's source and its clamped level (R31). -/
theorem resolve_led (cfg : ChannelConfig) (prio : Source → Fin 8) {l : List Claim} (h : l ≠ []) :
    ∃ c ∈ l, leaderOf cfg.mode prio l = some c ∧
      resolve cfg prio l = { level := clamp cfg.ceiling c.level, leader := some c.source } := by
  obtain ⟨c, hc⟩ := leaderOf_isSome cfg.mode prio h
  exact ⟨c, leaderOf_mem hc, hc, by simp [resolve, hc]⟩

/-- In LATEST mode the leader is the first claim (R29). -/
theorem resolve_latest (cfg : ChannelConfig) (prio : Source → Fin 8) (l : List Claim) (h : cfg.mode = .latest) :
    (resolve cfg prio l).leader = l.head?.map (·.source) := by
  cases l with
  | nil => rfl
  | cons c l => simp [resolve, leaderOf, topTier, h]

end Sys2Proof.Machine
end

