-- ==== Sys2Proof/Laws/Store.lean ====
section
/-! SUPPORT. What a Claim Store change leaves, said once: the store part, the emptied reports, and the change as a whole (R8 to R10, R32,
R46, R68). -/

namespace Sys2Proof.Machine
open Sys2Proof Host

/-! ### Recomputation and the store part -/

/-- The channel is handed on (R10). -/
def handedOn (lists : Vector (List Claim) 64) (s : State) (h : Chan) : Bool :=
  decide (listKey (s.store.lists.get h) ≠ listKey (lists.get h))

/-- The resolver after the store part of a change. -/
def committedResolver (lists : Vector (List Claim) 64) (s : State) : LevelResolver :=
  { s.resolver with
    resolved := Vector.ofFn fun h =>
      if handedOn lists s h then resolve (s.resolver.config.get h) (priorityOf s) (lists.get h)
      else s.resolver.resolved.get h }

/-- The fade engine after the store part of a change (R46). -/
def committedFades (lists : Vector (List Claim) 64) (s : State) : FadeEngine :=
  if s.fades.timer = none ∧ anyMoving lists = true then { s.fades with timer := some s.fades.period } else s.fades

/-- The notices of a change: on each channel the completions before the lead notices (R10, R40). -/
def committedNotices (lists : Vector (List Claim) 64) (done : Chan → List Addressed) (s : State) : List Addressed :=
  allChannels.flatMap fun h =>
    done h ++ (if handedOn lists s h then
      leadNotices h (s.resolver.resolved.get h) ((committedResolver lists s).resolved.get h) (lists.get h) else [])

/-- Priorities are read from the source records (R4). -/
theorem priorityOf_congr {s t : State} (h : ∀ p, (s.sessions.get p).priority = (t.sessions.get p).priority)
    (hs : s.stream.record.priority = t.stream.record.priority) : priorityOf s = priorityOf t := by
  funext src
  cases src
  · exact h .cp0
  · exact h .cp1
  · exact h .cp2
  · exact hs

theorem startStepTimer_eq (s : State) : startStepTimer s =
    { s with
      fades := if s.fades.timer = none ∧ anyMoving s.store.lists = true then
        { s.fades with timer := some s.fades.period } else s.fades } := by
  unfold startStepTimer
  split <;> rfl

/-- The store part of a change, as one update. -/
theorem commit_state (lists : Vector (List Claim) 64) (done : Chan → List Addressed) (s : State) :
    (commit lists done s).1 =
      { s with
        store := storeWith lists s.store
        resolver := committedResolver lists s
        fades := committedFades lists s } := by
  change startStepTimer _ = _
  rw [startStepTimer_eq]
  rfl

theorem commit_notices (lists : Vector (List Claim) 64) (done : Chan → List Addressed) (s : State) :
    (commit lists done s).2 = committedNotices lists done s := by
  rfl

@[simp] theorem storeWith_lists (lists : Vector (List Claim) 64) (st : ClaimStore) : (storeWith lists st).lists = lists := rfl

@[simp] theorem storeWith_counts (lists : Vector (List Claim) 64) (st : ClaimStore) (src : Source) :
    (storeWith lists st).counts.get src = countClaims lists src := by
  simp [storeWith]

/-! ### Emptied reports (R8, R68) -/

/-- The report of a source makes its state DETACHED: the change emptied it, and it is DETACHING. -/
def emptiedTo (before s : State) (p : Port) : Bool :=
  decide (0 < claimCount before (sourceOf p)) && decide (claimCount s (sourceOf p) = 0) &&
    decide ((s.sessions.get p).state = .detaching)

theorem reportEmptied_not {before : State} {p : Port} {x : State × List Addressed} (h : emptiedTo before x.1 p = false) :
    reportEmptied before p x = x := by
  unfold reportEmptied
  simp only [emptiedTo, Bool.and_eq_false_iff, decide_eq_false_iff_not] at h
  rw [if_neg]
  tauto

/-- What a report can change: the source's session state and the use of free values; and the notices in waiting. -/
theorem reportEmptied_state (before : State) (p : Port) (x : State × List Addressed) :
    (reportEmptied before p x).1 =
      { x.1 with
        sessions := if emptiedTo before x.1 p then
            x.1.sessions.set p { x.1.sessions.get p with state := .detached } else x.1.sessions
        freeCount := (reportEmptied before p x).1.freeCount } := by
  cases h : emptiedTo before x.1 p
  · rw [reportEmptied_not h]
    rfl
  · unfold reportEmptied
    simp only [emptiedTo, Bool.and_eq_true, decide_eq_true_eq] at h
    rw [if_pos ⟨h.1.1, h.1.2, h.2⟩]
    rfl

/-! ### The change as a whole -/

/-- The state after the reports of the three ports, before the notices are placed. -/
def reported (lists : Vector (List Claim) 64) (done : Chan → List Addressed) (s : State) : State × List Addressed :=
  reportEmptied s .cp2 (reportEmptied s .cp1 (reportEmptied s .cp0 (commit lists done s)))

theorem applyChange_eq (lists : Vector (List Claim) 64) (done : Chan → List Addressed) (s : State) :
    applyChange lists done s = raise (reported lists done s).2 (reported lists done s).1 := rfl

/-- The source is emptied by the change and DETACHING before it. -/
def emptiedBy (lists : Vector (List Claim) 64) (s : State) (p : Port) : Bool :=
  decide (0 < claimCount s (sourceOf p)) && decide (countClaims lists (sourceOf p) = 0) &&
    decide ((s.sessions.get p).state = .detaching)

/-- A session after the emptied reports of a change (R68). -/
def reportedSession (lists : Vector (List Claim) 64) (s : State) (p : Port) : SourceRecord :=
  if emptiedBy lists s p then { s.sessions.get p with state := .detached } else s.sessions.get p

theorem claimCount_commit (lists : Vector (List Claim) 64) (done : Chan → List Addressed) (s : State) (src : Source) :
    claimCount (commit lists done s).1 src = countClaims lists src := by
  rw [commit_state]
  simp [claimCount]

/-- Everything but the notice queues after a change, given as one update of the state before it. -/
theorem reported_state (lists : Vector (List Claim) 64) (done : Chan → List Addressed) (s : State) :
    (reported lists done s).1 =
      { s with
        store := storeWith lists s.store
        resolver := committedResolver lists s
        fades := committedFades lists s
        sessions := ⟨reportedSession lists s .cp0, reportedSession lists s .cp1, reportedSession lists s .cp2⟩
        freeCount := (reported lists done s).1.freeCount } := by
  have hc : ∀ p, emptiedTo s (commit lists done s).1 p = emptiedBy lists s p := by
    intro p
    unfold emptiedTo emptiedBy
    rw [claimCount_commit, commit_state]
  have h1 := reportEmptied_state s .cp0 (commit lists done s)
  generalize hx : reportEmptied s .cp0 (commit lists done s) = x at h1
  have h2 := reportEmptied_state s .cp1 x
  generalize hy : reportEmptied s .cp1 x = y at h2
  have h3 := reportEmptied_state s .cp2 y
  have hr : reported lists done s = reportEmptied s .cp2 y := by rw [← hy, ← hx]; rfl
  rw [hr]
  have hcx : emptiedTo s x.1 .cp1 = emptiedBy lists s .cp1 := by
    rw [← hc]
    unfold emptiedTo
    rw [h1]
    simp only [claimCount]
    split <;> rfl
  have hcy : emptiedTo s y.1 .cp2 = emptiedBy lists s .cp2 := by
    rw [← hc]
    unfold emptiedTo
    rw [h2, h1]
    simp only [claimCount]
    split <;> split <;> rfl
  rw [h3, hcy, h2, hcx, h1, hc]
  rw [commit_state]
  simp only [reportedSession]
  cases emptiedBy lists s .cp0 <;> cases emptiedBy lists s .cp1 <;> cases emptiedBy lists s .cp2 <;> rfl

section applyChange
variable (lists : Vector (List Claim) 64) (done : Chan → List Addressed) (s : State)

@[simp] theorem applyChange_store : (applyChange lists done s).store = storeWith lists s.store := by
  rw [applyChange_eq, raise_store, reported_state]
@[simp] theorem applyChange_resolver : (applyChange lists done s).resolver = committedResolver lists s := by
  rw [applyChange_eq, raise_resolver, reported_state]
@[simp] theorem applyChange_fades : (applyChange lists done s).fades = committedFades lists s := by
  rw [applyChange_eq, raise_fades, reported_state]
@[simp] theorem applyChange_session (p : Port) :
    (applyChange lists done s).sessions.get p = reportedSession lists s p := by
  rw [applyChange_eq, raise_sessions, reported_state]
  cases p <;> rfl
@[simp] theorem applyChange_executor : (applyChange lists done s).executor = s.executor := by
  rw [applyChange_eq, raise_executor, reported_state]
@[simp] theorem applyChange_scenes : (applyChange lists done s).scenes = s.scenes := by
  rw [applyChange_eq, raise_scenes, reported_state]
@[simp] theorem applyChange_stream : (applyChange lists done s).stream = s.stream := by
  rw [applyChange_eq, raise_stream, reported_state]
@[simp] theorem applyChange_output : (applyChange lists done s).output = s.output := by
  rw [applyChange_eq, raise_output, reported_state]
@[simp] theorem applyChange_resetState : (applyChange lists done s).resetState = s.resetState := by
  rw [applyChange_eq, raise_resetState, reported_state]
@[simp] theorem applyChange_tickClocks : (applyChange lists done s).tickClocks = s.tickClocks := by
  rw [applyChange_eq, raise_tickClocks, reported_state]
@[simp] theorem applyChange_pending : (applyChange lists done s).pending = s.pending := by
  rw [applyChange_eq, raise_pending, reported_state]

/-- The notices of a change are placed in the queues of the ports, and nothing else of a port changes. -/
theorem applyChange_port (q : Port) : (applyChange lists done s).ports.get q =
    placeAll (noticesFor q (reported lists done s).2) (s.ports.get q) := by
  rw [applyChange_eq, raise_port, reported_state]

end applyChange

theorem reportedSession_of_not {lists : Vector (List Claim) 64} {s : State} {p : Port} (h : emptiedBy lists s p = false) :
    reportedSession lists s p = s.sessions.get p := by
  simp [reportedSession, h]

/-- A change that empties no DETACHING source: the sessions stay, no free value is used, and its notices are the completions
and the lead notices. -/
theorem applyChange_plain {lists : Vector (List Claim) 64} {done : Chan → List Addressed} {s : State}
    (h : ∀ p, emptiedBy lists s p = false) :
    applyChange lists done s = raise (committedNotices lists done s) (commit lists done s).1 := by
  have h0 : emptiedTo s (commit lists done s).1 .cp0 = false := by
    have := h .cp0
    unfold emptiedTo
    rw [claimCount_commit, commit_state]
    exact this
  have h1 : emptiedTo s (commit lists done s).1 .cp1 = false := by
    have := h .cp1
    unfold emptiedTo
    rw [claimCount_commit, commit_state]
    exact this
  have h2 : emptiedTo s (commit lists done s).1 .cp2 = false := by
    have := h .cp2
    unfold emptiedTo
    rw [claimCount_commit, commit_state]
    exact this
  rw [applyChange_eq]
  unfold reported
  rw [reportEmptied_not h0, reportEmptied_not h1, reportEmptied_not h2, commit_notices]

/-- The resolver after a change is the one the rules give. -/
theorem committedResolver_get (lists : Vector (List Claim) 64) (s : State) (h : Chan) :
    (committedResolver lists s).resolved.get h =
      if listKey (s.store.lists.get h) = listKey (lists.get h) then s.resolver.resolved.get h
      else resolve (s.resolver.config.get h) (priorityOf s) (lists.get h) := by
  simp only [committedResolver, get_ofFn, handedOn, decide_eq_true_eq]
  by_cases hk : listKey (s.store.lists.get h) = listKey (lists.get h)
  · simp [hk]
  · simp [hk]

/-! ### Counting claims (R8) -/

theorem countChannels_le (f : Chan → Bool) : countChannels f ≤ 64 := by
  unfold countChannels
  exact le_trans (List.length_filter_le _ _) (by simp [allChannels])

theorem countChannels_congr {f g : Chan → Bool} (h : ∀ x, f x = g x) : countChannels f = countChannels g := by
  rw [show f = g from funext h]

theorem countChannels_mono {f g : Chan → Bool} (h : ∀ x, f x = true → g x = true) : countChannels f ≤ countChannels g := by
  unfold countChannels
  exact (List.monotone_filter_right allChannels (fun a ha => h a ha)).length_le

theorem countChannels_or_disjoint {f g : Chan → Bool} (h : ∀ x, f x = true → g x = false) :
    countChannels (fun x => f x || g x) = countChannels f + countChannels g := by
  unfold countChannels
  generalize allChannels = l
  induction l with
  | nil => rfl
  | cons a l ih =>
    cases hf : f a
    · cases hg : g a <;> simp [hf, hg, ih] ; omega
    · have hg := h a hf
      simp [hf, hg, ih]
      omega

theorem countChannels_zero {f : Chan → Bool} : countChannels f = 0 ↔ ∀ x, f x = false := by
  unfold countChannels
  rw [List.length_eq_zero_iff, List.filter_eq_nil_iff]
  simp

theorem countChannels_pos {f : Chan → Bool} : 0 < countChannels f ↔ ∃ x, f x = true := by
  rw [Nat.pos_iff_ne_zero, Ne, countChannels_zero]
  simp

end Sys2Proof.Machine
end

