-- ==== Sys2Proof/Laws/Claims.lean ====
section
/-! SUPPORT. What a write, a release, a stream application and a re-sort leave of one list, and that a Claim Store change leaves the
resolver, the step timer and the pool as the rules say: each said once (R6, R11, R15, R17, R21, R32, R46). -/

namespace Sys2Proof.Machine
open Sys2Proof Host

/-! ### One write (R11) -/

theorem writtenClaim_written (src : Source) (v : Level) (o : FadeOrder) (watch : Bool) (old : Option Claim) :
    Written v o watch src old (writtenClaim src v o watch old) := by
  unfold Written writtenClaim
  by_cases h : o.steps = 0
  · simp [h]
  · cases old <;> simp [h, FadeBegins]

@[simp] theorem writtenClaim_source (src : Source) (v : Level) (o : FadeOrder) (watch : Bool) (old : Option Claim) :
    (writtenClaim src v o watch old).source = src := (writtenClaim_written src v o watch old).1

theorem writeClaim_others (prio : Source → Fin 8) (src : Source) (v : Level) (o : FadeOrder) (watch : Bool) (l : List Claim) :
    removeClaim src (writeClaim prio src v o watch l) = removeClaim src l := by
  unfold writeClaim
  rw [removeClaim_placeClaim prio (writtenClaim_source ..), removeClaim_idem]

theorem writeClaim_find (prio : Source → Fin 8) (src : Source) (v : Level) (o : FadeOrder) (watch : Bool) (l : List Claim) :
    findClaim src (writeClaim prio src v o watch l) = some (writtenClaim src v o watch (findClaim src l)) :=
  findClaim_placeClaim prio (writtenClaim_source ..) (holds_removeClaim src l)

theorem writeClaim_atFront {prio : Source → Fin 8} {l : List Claim} (h : Ordered prio l) (src : Source) (v : Level)
    (o : FadeOrder) (watch : Bool) : AtFrontOfTier prio src (writeClaim prio src v o watch l) := by
  have := placeClaim_atFront (removeClaim_ordered h src) (writtenClaim src v o watch (findClaim src l))
  rwa [writtenClaim_source] at this

theorem writeClaim_ordered {prio : Source → Fin 8} {l : List Claim} (h : Ordered prio l) (src : Source) (v : Level)
    (o : FadeOrder) (watch : Bool) : Ordered prio (writeClaim prio src v o watch l) :=
  placeClaim_ordered (removeClaim_ordered h src) _

theorem writeClaim_onePerSource {prio : Source → Fin 8} {l : List Claim} (h : OnePerSource l) (src : Source) (v : Level)
    (o : FadeOrder) (watch : Bool) : OnePerSource (writeClaim prio src v o watch l) :=
  placeClaim_onePerSource (removeClaim_onePerSource h src) (by simp)

theorem writeClaim_holds (prio : Source → Fin 8) (src other : Source) (v : Level) (o : FadeOrder) (watch : Bool)
    (l : List Claim) : holds other (writeClaim prio src v o watch l) = (decide (src = other) || holds other l) := by
  unfold writeClaim
  rw [holds_placeClaim, writtenClaim_source]
  by_cases h : src = other
  · simp [h]
  · rw [holds_removeClaim_ne (fun e => h e.symm)]

/-! ### One release (R17) -/

theorem releasedClaim_keepsSource (snap : Level) (o : FadeOrder) : KeepsSource (releasedClaim snap o) := fun _ => rfl

theorem releaseClaim_others (cfg : ChannelConfig) (prio : Source → Fin 8) (src : Source) (o : FadeOrder) (l : List Claim) :
    removeClaim src (releaseClaim cfg prio src o l) = removeClaim src l := by
  unfold releaseClaim
  split
  · exact removeClaim_idem src l
  · exact removeClaim_mapClaim (releasedClaim_keepsSource _ o) src l

/-- A list without a claim of the source is passed over. -/
theorem releaseClaim_of_none {src : Source} {l : List Claim} (h : findClaim src l = none) (cfg : ChannelConfig)
    (prio : Source → Fin 8) (o : FadeOrder) : releaseClaim cfg prio src o l = l := by
  have hh : holds src l = false := findClaim_eq_none.1 h
  unfold releaseClaim
  split
  · exact removeClaim_of_not_holds hh
  · have : ∀ c ∈ l, c.source ≠ src := by
      intro c hc hs
      have := holds_iff.2 ⟨c, hc, hs⟩
      rw [hh] at this
      exact Bool.noConfusion this
    unfold mapClaim
    conv_rhs => rw [← List.map_id l]
    apply List.map_congr_left
    intro c hc
    simp [this c hc]

theorem releaseClaim_released {src : Source} {l : List Claim} {old : Claim} (h : findClaim src l = some old)
    (cfg : ChannelConfig) (prio : Source → Fin 8) (o : FadeOrder) :
    Released (snapshot cfg prio src l) o old (findClaim src (releaseClaim cfg prio src o l)) := by
  unfold Released releaseClaim
  by_cases ho : o.steps = 0
  · simp [ho]
  · simp only [ho, if_false]
    rw [findClaim_mapClaim (releasedClaim_keepsSource _ o), h]
    exact ⟨_, _, rfl, rfl, rfl, ⟨rfl, rfl⟩, rfl, rfl, rfl⟩

theorem releaseClaim_places {o : FadeOrder} (ho : o.steps ≠ 0) (cfg : ChannelConfig) (prio : Source → Fin 8) (src : Source)
    (l : List Claim) : (releaseClaim cfg prio src o l).map (·.source) = l.map (·.source) := by
  unfold releaseClaim
  rw [if_neg ho]
  exact map_source_mapClaim (releasedClaim_keepsSource _ o) src l

/-! ### One slot of a packet (R15) -/

theorem setStreamClaim_keepsSource (v : Level) : KeepsSource (setStreamClaim v) := fun _ => rfl

theorem applySlot_others (prio : Source → Fin 8) (v : Level) (l : List Claim) :
    removeClaim .str (applySlot prio v l) = removeClaim .str l := by
  unfold applySlot
  cases h : findClaim .str l with
  | none => exact removeClaim_placeClaim prio (c := streamClaim v) rfl l
  | some c =>
    dsimp only
    split
    · exact removeClaim_mapClaim (setStreamClaim_keepsSource v) .str l
    · have hc : (setStreamClaim v c).source = .str := (setStreamClaim_keepsSource v c).trans (findClaim_source h)
      rw [removeClaim_placeClaim prio hc, removeClaim_idem]

/-- The STR claim after a slot is applied: created, or set where its source found it. -/
theorem applySlot_find (prio : Source → Fin 8) (v : Level) (l : List Claim) :
    findClaim .str (applySlot prio v l) = some (((findClaim .str l).map (setStreamClaim v)).getD (streamClaim v)) := by
  unfold applySlot
  cases h : findClaim .str l with
  | none => exact findClaim_placeClaim prio (c := streamClaim v) rfl (findClaim_eq_none.1 h)
  | some c =>
    dsimp only
    split
    · rw [findClaim_mapClaim (setStreamClaim_keepsSource v), h]
      rfl
    · have hc : (setStreamClaim v c).source = .str := (setStreamClaim_keepsSource v c).trans (findClaim_source h)
      rw [findClaim_placeClaim prio hc (holds_removeClaim .str l)]
      rfl

/-! ### A re-sort (R21) -/

theorem resort_find {src : Source} {l : List Claim} {c : Claim} (h : findClaim src l = some c) (prio : Source → Fin 8) :
    findClaim src (placeClaim prio c (removeClaim src l)) = some c :=
  findClaim_placeClaim prio (findClaim_source h) (holds_removeClaim src l)

theorem resort_others {src : Source} {l : List Claim} {c : Claim} (h : findClaim src l = some c) (prio : Source → Fin 8) :
    removeClaim src (placeClaim prio c (removeClaim src l)) = removeClaim src l := by
  rw [removeClaim_placeClaim prio (findClaim_source h), removeClaim_idem]

/-! ### A change as a whole -/

theorem reportedSession_priority (lists : Vector (List Claim) 64) (s : State) (p : Port) :
    (reportedSession lists s p).priority = (s.sessions.get p).priority := by
  unfold reportedSession
  split <;> rfl

@[simp] theorem applyChange_priority (lists : Vector (List Claim) 64) (done : Chan → List Addressed) (s : State) :
    priorityOf (applyChange lists done s) = priorityOf s :=
  priorityOf_congr (fun p => by rw [applyChange_session, reportedSession_priority]) (by rw [applyChange_stream])

@[simp] theorem committedResolver_config (lists : Vector (List Claim) 64) (s : State) :
    (committedResolver lists s).config = s.resolver.config := by
  unfold committedResolver
  generalize (Vector.ofFn _ : Vector Resolved 64) = v
  rfl

/-- A change recomputes what it hands on, starts the step timer if it must, and moves the pool's entries, provided that it does not
create more claims than there are entries for (R6, R10, R32, R46). -/
theorem applyChange_taken (lists : Vector (List Claim) 64) (done : Chan → List Addressed) (s : State)
    (hcp : countClaims lists .cp0 + countClaims lists .cp1 + countClaims lists .cp2 ≤ s.store.free + cpClaims s.store.counts)
    (hstr : countClaims lists .str ≤ s.store.reservedUnused + s.store.counts.str) :
    ChangeTaken s (applyChange lists done s) := by
  have hl : (applyChange lists done s).store.lists = lists := by rw [applyChange_store, storeWith_lists]
  refine ⟨⟨?_, ?_, ?_⟩, ?_, ⟨?_, ?_, ?_⟩⟩
  · rw [applyChange_resolver, committedResolver_config]
  · intro h hs
    unfold ListSame at hs
    rw [hl] at hs
    rw [applyChange_resolver, committedResolver_get, if_pos hs]
  · intro h hs
    unfold ListSame at hs
    rw [hl] at hs
    rw [applyChange_resolver, committedResolver_get, if_neg hs, hl, applyChange_priority, committedResolver_config]
  · unfold TimerStarted
    rw [applyChange_fades, hl, committedFades]
  · intro src
    unfold claimCount
    rw [hl, applyChange_store, storeWith_counts]
  · rw [applyChange_store]
    simp only [storeWith, cpClaims, PerSource.ofFn] at hcp ⊢
    omega
  · rw [applyChange_store]
    simp only [storeWith, PerSource.ofFn] at hstr ⊢
    omega

/-- A change that empties no DETACHING source raises its completions and its lead notices, in ascending channel order (R10, R40). -/
theorem applyChange_placed {lists : Vector (List Claim) 64} {done : Chan → List Addressed} {s : State}
    (h : ∀ p, emptiedBy lists s p = false) (hq : QueuesBounded s) :
    Placed (committedNotices lists done s) s (applyChange lists done s) := by
  have hp := raise_placed (committedNotices lists done s) (commit lists done s).1 (by rw [commit_state]; exact hq)
  rw [← applyChange_plain h] at hp
  rw [commit_state] at hp
  exact hp

end Sys2Proof.Machine
end

