-- ==== Sys2Proof/Laws/Line.lean ====
section
/-! SUPPORT. The stream line's shared operations, said once: which fall the receiver takes, and what a word's samples come to (R118,
R119, R138). -/

namespace Sys2Proof.Machine
open Sys2Proof Host

theorem takesFall_iff (lead : List Bool) (s : State) : takesFall lead s = true ↔
    s.resetState.lasting = none ∧ (s.stream.awaitsHigh = false ∨ true ∈ lead) := by
  cases h : s.resetState.lasting <;> simp [takesFall, resetLasts, h]

theorem byteOfBits_reverse : ∀ (b0 b1 b2 b3 b4 b5 b6 b7 : Bool) (i : Fin 8),
    (byteOfBits [b7, b6, b5, b4, b3, b2, b1, b0]).getLsbD i.val = [b0, b1, b2, b3, b4, b5, b6, b7].getD i.val false := by
  decide +kernel

/-- Bit `i` of a word's data value is the vote on data bit `i` (R118). -/
theorem wordData_getLsbD (w : WordSamples) (i : Fin 8) : (wordData w).getLsbD i.val = vote (w.data.get i) := by
  have h : w.data.toList =
      [w.data.get 0, w.data.get 1, w.data.get 2, w.data.get 3, w.data.get 4, w.data.get 5, w.data.get 6, w.data.get 7] := by
    apply List.ext_getElem
    · simp
    · intro k hk _
      have : k < 8 := by simpa using hk
      interval_cases k <;> rfl
  rw [wordData, h]
  simp only [List.map_cons, List.map_nil, List.reverse_cons, List.reverse_nil, List.nil_append, List.cons_append]
  rw [byteOfBits_reverse]
  fin_cases i <;> rfl

/-- Some data bit is noisy (R118). -/
theorem any_noisy_iff (w : WordSamples) : w.data.toList.any noisy = true ↔ ∃ i, noisy (w.data.get i) = true := by
  simp only [List.any_eq_true]
  constructor
  · rintro ⟨b, hb, hn⟩
    obtain ⟨k, hk, rfl⟩ := List.mem_iff_getElem.1 hb
    exact ⟨⟨k, by simpa using hk⟩, by simpa [Vector.get] using hn⟩
  · rintro ⟨i, hn⟩
    exact ⟨w.data.get i, by simp [Vector.get], hn⟩

end Sys2Proof.Machine
end

