-- ==== Sys2Proof/Laws/Link.lean ====
section
/-! SUPPORT. What clocking a whole byte does to a port, and what the end of a transaction tests: the links' shared operations, said
once (R154, R155, R157, R160). -/

namespace Sys2Proof.Machine
open Sys2Proof Host

theorem byteOfBits_bitsOfByte (b : Byte) : byteOfBits (bitsOfByte b) = b := by
  revert b
  decide

/-- The bits presented for a byte are the byte's, or zeros once a reset has been met (R172). -/
theorem byteOfBits_presented (b : Byte) (voided : Bool) :
    byteOfBits ((List.range 8).map fun k => if voided then false else bitOfByte b k) = if voided then 0 else b := by
  cases voided
  · exact byteOfBits_bitsOfByte b
  · simp only [if_true]
    decide

/-- The byte that goes out while a byte comes in. -/
def byteOut (l : Link) : Byte := if l.voided then 0 else outByte l

/-- Eight clock cycles from a byte boundary are one byte in and one byte out. -/
theorem clockBits_byte (b : Byte) (pi : PortInterface) (hi : pi.link.inBits = []) (ho : pi.link.outBits = []) :
    clockBits (bitsOfByte b) pi = completeByte b (byteOut pi.link) pi := by
  have hin : byteOfBits [bitOfByte b 0, bitOfByte b 1, bitOfByte b 2, bitOfByte b 3, bitOfByte b 4, bitOfByte b 5,
      bitOfByte b 6, bitOfByte b 7] = b := byteOfBits_bitsOfByte b
  have hout := byteOfBits_presented (outByte pi.link) pi.link.voided
  obtain ⟨⟨sel, voided, st, tr, inB, outB, stg, head, shifted⟩, oc, rq, rs, ns, lost⟩ := pi
  simp only at hi ho
  subst hi ho
  simp only [List.range, List.range.loop, List.map_cons, List.map_nil] at hout
  simp only [bitsOfByte, List.range, List.range.loop, List.map_cons, List.map_nil, clockBits, List.foldl_cons, List.foldl_nil,
    clockBit, List.nil_append, List.cons_append, List.length_cons, List.length_nil, sdoBit, outByte,
    Nat.reduceAdd, Nat.reduceLT, if_true, if_false, hin]
  simp only [outByte] at hout
  rw [hout]
  simp only [completeByte, byteOut, outByte]
  cases tr with
  | none => rfl
  | some t => cases t <;> rfl

/-- After a whole byte the link stands at a byte boundary again. -/
theorem completeByte_boundary (b o : Byte) (pi : PortInterface) :
    (completeByte b o pi).link.inBits = [] ∧ (completeByte b o pi).link.outBits = [] := by
  unfold completeByte
  cases pi.link.transaction with
  | none => exact ⟨rfl, rfl⟩
  | some t => cases t <;> exact ⟨rfl, rfl⟩

@[simp] theorem completeByte_shifted (b o : Byte) (pi : PortInterface) :
    (completeByte b o pi).link.shifted = pi.link.shifted ++ [o] := by
  unfold completeByte
  cases pi.link.transaction with
  | none => rfl
  | some t => cases t <;> rfl

@[simp] theorem completeByte_transaction (b o : Byte) (pi : PortInterface) :
    (completeByte b o pi).link.transaction = some (pi.link.transaction.getD (transactionOfCode b)) := by
  unfold completeByte
  cases h : pi.link.transaction with
  | none => rfl
  | some t => cases t <;> simp_all

/-- A byte changes the link alone. -/
theorem completeByte_eq (b o : Byte) (pi : PortInterface) : completeByte b o pi = { pi with link := (completeByte b o pi).link } := by
  unfold completeByte
  cases pi.link.transaction with
  | none => rfl
  | some t => cases t <;> rfl

theorem clockBits_append (xs ys : List Bool) (pi : PortInterface) :
    clockBits (xs ++ ys) pi = clockBits ys (clockBits xs pi) := by
  simp [clockBits]

/-- The test a COLLECT or COLLECT_NOTICE makes at its deassertion. -/
theorem headShiftedOut_iff (l : Link) : headShiftedOut l = true ↔ WholeEntryShifted l := by
  unfold headShiftedOut WholeEntryShifted
  cases l.head with
  | none => simp
  | some bytes => cases l.voided <;> simp

/-- The test a SUBMIT makes at its deassertion (R158, case 1). -/
theorem stagedRequest_none (staging : List Byte) : stagedRequest staging = none ↔ FallsShort staging := by
  unfold stagedRequest FallsShort
  by_cases h : staging.length < 4
  · simp [h]
  · by_cases h2 : Config.bodyMax < declaredLength staging ∨ staging.length < 4 + declaredLength staging
    · simp only [h, h2, if_true, if_false, true_iff]
      right
      exact h2
    · simp only [h, h2, if_false, reduceCtorEq, false_iff]
      intro hc
      rcases hc with hc | hc | hc
      · exact hc
      · exact h2 (Or.inl hc)
      · exact h2 (Or.inr hc)

end Sys2Proof.Machine
end

