-- ==== Sys2Proof/WellFormed.lean ====
section
/-! DEFINITION. Which terms of Instr name something that can happen: clocking means at least one clock edge, the samples of a
word begin with a fall of the line and are of the kind the row names (R118, R119, R121, R122). The machine takes no step on this
check: a command whose samples are of another kind is not taken (notes/assumptions/2.md). -/

namespace Sys2Proof

/-- A transaction command clocks at least one bit, or deasserts select (R154). -/
def LinkAct.wellFormed : LinkAct → Bool
  | .clock sdi => !sdi.isEmpty
  | .deassert => true

/-- The line falls: the first sample at 0 is sample 0 of the start bit, and the sample before it, if the receiver was seeking
then, is 1 (R118). -/
def beginsWithFall (lead : List Bool) (b : BitSamples) : Bool := lead.getLast?.getD true && !b.getLsbD 0

/-- The samples are those of a word with the given mark bit and no framing error (R119). -/
def WordSamples.isWord (w : WordSamples) (mark : Bool) : Bool :=
  match lineWord w with
  | .word _ m _ => m == mark
  | _ => false

/-- The samples are those of a word with a framing error (R119). -/
def WordSamples.isFraming (w : WordSamples) : Bool := lineWord w == .framing

/-- The check. Every command without operands, and every one whose operand is a port alone, passes. -/
def Instr.wellFormed : Instr → Bool
  | .submit _ a => a.wellFormed
  | .collect _ a => a.wellFormed
  | .collectNotice _ a => a.wellFormed
  | .status _ a => a.wellFormed
  | .unrecognisedTransaction _ a => a.wellFormed
  | .markWord w => beginsWithFall w.lead w.start && w.isWord true
  | .streamWord w => beginsWithFall w.lead w.start && w.isWord false
  | .framingError w => beginsWithFall w.lead w.start && w.isFraming
  | .falseStart w => beginsWithFall w.lead w.start && vote w.start
  | .unknownKind | .attach | .detach | .ping | .setLevels | .release | .releaseAll | .recall | .hold | .unhold => true
  | .defineScene | .eraseScene | .captureScene | .readScene | .readStatus | .readChannel | .readLevels => true
  | .readSource | .readStream | .configChannels | .configSource | .configStream | .configOutput | .grant => true
  | .restart | .fadeStep | .lapse _ | .holdTimerExpiry _ | .lossTimerExpiry | .frameStart | .idle => true
  | .por | .rst | .resetEnd | .selectAssertion _ => true

end Sys2Proof
end

