-- ==== Sys2Proof/Tests/Slice0.lean ====
section
/-! SUPPORT. The model's own tests: the checks of WellFormed, the spec's worked examples one step at a time, and for each statement
with hypotheses a state and operands that meet them. -/

namespace Sys2Proof.Tests
open Sys2Proof Sys2Proof.Machine Host

-- One theorem at a time: each waiting elaboration thread would hold its own stack.
set_option Elab.async false

/-! ### Builders -/

/-- The state a command leaves; the reset state where it leaves none. -/
def left (o : Outcome State Fault Refusal) : State :=
  match o with
  | .next s => s
  | .fault _ => State.reset
  | .refused _ => State.reset

/-- A request of tag 7 with a body. -/
def ask (k : Kind) (body : List Nat) : Request := { kind := k.code, tag := 7, length := body.length, body := body.map byteOf }

/-- The state with one request waiting at a port, and in execution. -/
def ready (p : Port) (r : Request) (s : State) : State :=
  { s with
    ports := s.ports.set p { s.ports.get p with requests := [r] }
    executor := { lastServed := p, current := some p } }

/-- Reset, with all three sources attached under a keepalive and holding every right and subscription. -/
def stage : State :=
  { State.reset with
    sessions := sessionsReset.map fun x =>
      { x with
        state := .attached, rights := ⟨true, true, true⟩, keepalivePeriod := 1, keepaliveRemaining := 10,
        subscriptions := ⟨true, true, true⟩ } }

/-- A request in execution on the stage, and the state it leaves. -/
def ran (p : Port) (k : Kind) (body : List Nat) (s : State) : State := left (exec (commandOfKind k) (ready p (ask k body) s))

/-- The last response of a port: its status and body. -/
def lastAnswer (p : Port) (s : State) : Option (Status × List Byte) :=
  (s.ports.get p).responses.getLast?.map fun x => (x.status, x.body)

/-- A steady claim. -/
def steady (src : Source) (v : Level) : Claim :=
  { source := src, state := .steady, level := v, target := v, notify := false, watch := true }

/-- A releasing claim of CP0 at its last step. -/
def ending : Claim :=
  { source := .cp0, state := .releasing { start := 300, duration := 2, elapsed := 1, tag := 9 }, level := 200, target := 100,
    notify := true, watch := false }

/-- The stage with one list of claims on channel 3, its records recomputed and its counts kept. -/
def withClaims (l : List Claim) (s : State) : State :=
  applyChange ((Vector.replicate 64 []).set 3 l) noneDone s

/-- Channel 3 in PEAK mode, led by CP0 at priority 5 with level 10, over CP1 at priority 3 with level 20. -/
def peakStage : State :=
  withClaims [steady .cp0 10, steady .cp1 20]
    { stage with
      sessions := { stage.sessions with cp0 := { stage.sessions.cp0 with priority := 5 } }
      resolver := { LevelResolver.reset with config := Vector.replicate 64 { ChannelConfig.reset with mode := .peak } } }

/-- A word with every sample of a bit alike, after a sample at 1. -/
def lineOf (d : Byte) (mark : Bool) : WordSamples :=
  { lead := [true], start := 0, data := Vector.ofFn fun i => if d.getLsbD i.val then 0xFFFF else 0
    mark := if mark then 0xFFFF else 0, stop := 0xFFFF }

/-- The same word with its stop bit at 0. -/
def brokenLine (d : Byte) : WordSamples := { lineOf d false with stop := 0 }

/-! ### WellFormed refuses what cannot happen -/

theorem test_wellFormed_empty_clock : (Instr.submit .cp0 (.clock [])).wellFormed = false := by decide
theorem test_wellFormed_mark : (Instr.markWord (lineOf 5 false)).wellFormed = false ∧
    (Instr.markWord (lineOf 5 true)).wellFormed = true := by decide
theorem test_wellFormed_word : (Instr.streamWord (lineOf 5 true)).wellFormed = false ∧
    (Instr.streamWord (lineOf 5 false)).wellFormed = true := by decide
theorem test_wellFormed_framing : (Instr.framingError (lineOf 5 false)).wellFormed = false ∧
    (Instr.framingError (brokenLine 5)).wellFormed = true := by decide
theorem test_wellFormed_falseStart : (Instr.falseStart ⟨[], 0⟩).wellFormed = false ∧
    (Instr.falseStart ⟨[true], 0xFFFE⟩).wellFormed = true := by decide
theorem test_wellFormed_fall : (Instr.streamWord { lineOf 5 false with lead := [true, false] }).wellFormed = false := by decide

/-! ### Bits and words -/

theorem test_no_word_spells_a_command : decodeTableWord 8 0x6C = none := by decide
theorem test_line_word : lineWord (lineOf 0xA5 true) = .word 0xA5 true false := by decide
/-- Samples 7 and 8 read 1 and sample 9 reads 0: the bit is 1, and the word is noisy (R118). -/
theorem test_noise : lineWord { lineOf 0 false with mark := 0x0180 } = .word 0 true true := by decide
theorem test_status_byte_after_reset : statusByte (State.reset.ports.get .cp1) = 0x88 := by decide

/-! ### Requests, one step each -/

theorem test_attach : lastAnswer .cp1 (ran .cp1 .attach [0, 100, 1, 0, 40, 7] State.reset) = some (.ok, [1, 3, 6, 0]) := by
  decide +kernel
theorem test_ping : lastAnswer .cp0 (ran .cp0 .ping [] stage) = some (.ok, [1, 0, 10, 0]) := by decide +kernel
theorem test_detach : lastAnswer .cp0 (ran .cp0 .detach [0, 0] (withClaims [steady .cp0 100] stage)) = some (.ok, [1, 0]) := by
  decide +kernel
theorem test_grant_last_config : lastAnswer .cp0 (ran .cp0 .grant [0, 6] State.reset) = some (.lastConfig, []) := by
  decide +kernel
/-- The write of R87 without fade: created 1, updated 0, free after 191, and CP0 leads at the level. -/
theorem test_setLevels : lastAnswer .cp0 (ran .cp0 .setLevels [3, 1, 0, 0, 2, 0x12, 0x34] stage) = some (.ok, [1, 0, 191]) ∧
    (ran .cp0 .setLevels [3, 1, 0, 0, 2, 0x12, 0x34] stage).resolver.resolved.get 3 =
      { level := 0x1234, leader := some .cp0 } := by
  decide +kernel
theorem test_setLevels_malformed : lastAnswer .cp0 (ran .cp0 .setLevels [3, 2, 0, 0, 0, 0x12, 0x34] stage) =
    some (.malformed, []) := by decide +kernel
/-- The crossfade of chapter 3: the snapshot is the level of the claim below. -/
theorem test_release : ((ran .cp0 .release [3, 1, 0, 200, 1]
    (withClaims [steady .cp0 60000, steady .cp1 30000] stage)).store.lists.get 3).map (·.target) = [30000, 30000] := by
  decide +kernel
theorem test_releaseAll : lastAnswer .cp0 (ran .cp0 .releaseAll [0, 0, 0] (withClaims [steady .cp0 5] stage)) =
    some (.ok, [1, 192]) := by decide +kernel
theorem test_recall_empty : lastAnswer .cp0 (ran .cp0 .recall [4, 0, 0, 0] stage) = some (.noScene, []) := by decide +kernel
theorem test_recall : lastAnswer .cp0 (ran .cp0 .recall [4, 4, 0, 0]
    (withClaims [steady .cp0 5] { stage with scenes := storeScene 4 (.defined 0 [(6, 77)]) SceneStore.afterPor })) =
    some (.ok, [1, 0, 1, 191]) := by decide +kernel
theorem test_hold : lastAnswer .cp2 (ran .cp2 .hold [] stage) = some (.ok, [0x03, 0xE8, 1]) := by decide +kernel
theorem test_unhold : lastAnswer .cp2 (ran .cp2 .unhold [] (ran .cp2 .hold [] stage)) = some (.ok, [0]) := by decide +kernel
theorem test_defineScene : lastAnswer .cp0 (ran .cp0 .defineScene [31, 0, 40, 2, 5, 0, 1, 63, 0, 2] stage) =
    some (.ok, [2, 0x01, 0xFE]) := by decide +kernel
theorem test_defineScene_order : lastAnswer .cp0 (ran .cp0 .defineScene [31, 0, 40, 2, 5, 0, 1, 5, 0, 2] stage) =
    some (.range, []) := by decide +kernel
theorem test_eraseScene : lastAnswer .cp0 (ran .cp0 .eraseScene [0] stage) = some (.ok, [0, 0x02, 0x00]) := by decide +kernel
theorem test_captureScene : ((ran .cp0 .captureScene [2, 3, 1, 0, 9] (withClaims [steady .cp0 5] stage)).scenes.scenes.get 2) =
    .defined 9 [(3, 5)] := by decide +kernel
theorem test_readScene : lastAnswer .cp1 (ran .cp1 .readScene [2]
    { stage with scenes := storeScene 2 (.defined 9 [(3, 0x0105)]) SceneStore.afterPor }) =
    some (.ok, [2, 1, 0, 9, 1, 3, 1, 5]) := by decide +kernel
theorem test_readStatus : lastAnswer .cp1 (ran .cp1 .readStatus [] State.reset) =
    some (.ok, [192, 0, 0, 0, 2, 0, 0, 0, 0, 0, 0, 0, 1, 1, 3, 0xE8, 6, 0]) := by decide +kernel
theorem test_readChannel : lastAnswer .cp1 (ran .cp1 .readChannel [3] (withClaims [steady .cp0 5] stage)) =
    some (.ok, [3, 1, 0, 0, 0xFF, 0xFF, 0, 0, 0, 5, 0, 0, 0, 1, 0, 0, 0, 5, 0, 5, 0, 0]) := by decide +kernel
theorem test_readLevels : lastAnswer .cp1 (ran .cp1 .readLevels [3, 1, 0] (withClaims [steady .cp0 5] stage)) =
    some (.ok, [3, 1, 0, 0, 5]) := by decide +kernel
theorem test_readSource : lastAnswer .cp1 (ran .cp1 .readSource [3] stage) =
    some (.ok, [3, 0, 2, 0, 0, 0, 0, 0, 0, 0, 0, 0, 0, 0]) := by decide +kernel
theorem test_readStream : (lastAnswer .cp1 (ran .cp1 .readStream [0] stage)).map (fun x => x.2.length) = some 32 := by
  decide +kernel
theorem test_configChannels : lastAnswer .cp0 (ran .cp0 .configChannels [3, 1, 8, 9, 9, 9, 0, 2, 0, 0]
    (withClaims [steady .cp0 5] stage)) = some (.ok, [1, 0]) := by decide +kernel
theorem test_configSource : lastAnswer .cp0 (ran .cp0 .configSource [1, 5]
    (withClaims [steady .cp0 60000, steady .cp1 30000] stage)) = some (.ok, [1, 1]) := by decide +kernel
/-- The case of log 8, in PEAK mode: CP0 leads at 10 over CP1 at 20 below it; moved to CP1's tier it stays in front, the order is
as it was, and the record stays (R10, R21, R27), though the leading run now holds the greater level. -/
theorem test_configSource_same_order :
    ((ran .cp0 .configSource [0, 3] peakStage).resolver.resolved.get 3 = { level := 10, leader := some .cp0 }) ∧
    ((ran .cp0 .configSource [0, 3] peakStage).store.lists.get 3).map (·.source) = [.cp0, .cp1] := by decide +kernel
theorem test_configStream : lastAnswer .cp0 (ran .cp0 .configStream [5, 0, 8, 10, 0, 1, 0, 7, 3, 0xE8, 0, 0] stage) =
    some (.ok, [1, 0, 182, 10]) := by decide +kernel
theorem test_configOutput : lastAnswer .cp0 (ran .cp0 .configOutput [25, 8, 0, 10] stage) = some (.ok, [25, 1, 8, 0, 10]) := by
  decide +kernel
theorem test_restart : (ran .cp0 .restart [] (withClaims [steady .cp0 5] stage)).store.free = 192 ∧
    ((ran .cp0 .restart [] stage).ports.get .cp2).notices = [restartedNotice 2 0 7] := by decide +kernel
theorem test_unknownKind : lastAnswer .cp0 (left (exec .unknownKind (ready .cp0 { ask .ping [] with kind := 0x55 } stage))) =
    some (.unknownKind, []) := by decide +kernel

/-! ### Timers, frames, the stream, resets, links -/

/-- Step 200 of chapter 3's crossfade in small: the claim is removed, with FADE_DONE marked released. -/
theorem test_fadeStep : (left (exec .fadeStep (withClaims [ending] stage))).store.free = 192 ∧
    ((left (exec .fadeStep (withClaims [ending] stage))).ports.get .cp0).notices.getLast? =
      some { kind := .fadeDone, subject := 0, item := 3, tag := 9, value := 100, extra := 1 } := by decide +kernel
/-- The fades of chapter 3's table of levels (R50). -/
theorem test_fadeLevel : fadeLevel 0 1000 3 1 = 333 ∧ fadeLevel 1000 0 3 1 = 667 ∧ fadeLevel 60000 50000 100 3 = 59700 ∧
    fadeLevel 0 10 1000 99 = 0 ∧ fadeLevel 0 10 1000 100 = 1 := by decide +kernel
theorem test_lapse : ((left (exec (.lapse .cp1) stage)).sessions.get .cp1).state = .lapsed := by decide +kernel
theorem test_holdTimerExpiry : ((left (exec (.holdTimerExpiry .cp2) (ran .cp2 .hold [] stage))).ports.get .cp2).notices.getLast? =
    some { kind := .holdExpired, subject := 2, item := 0xFF, tag := 7, value := 1000, extra := 0 } := by decide +kernel
/-- Chapter 8: level 1000 from accumulator 8 carries, and gives 63 units. -/
theorem test_frameStart :
    (left (exec .frameStart { withClaims [steady .cp0 1000] stage with
      output := { OutputGenerator.reset with accumulator := Vector.replicate 64 8 } })).output.pulse.get 3 = 63 := by
  decide +kernel

/-- The stage with a window of one channel, channel 3, and a packet in assembly. -/
def collecting (ws : List StagedWord) : State :=
  { stage with
    store := { ClaimStore.reset with free := 191, reservedUnused := 1 }
    stream :=
      { StreamReceiver.reset with
        record := { StreamRecord.reset with state := .waiting, id := 5, first := 3, count := 1 }
        receiver := .collecting, staging := ws, idleArmed := true, awaitsHigh := false } }

/-- Id 5, slot 0, value 2, check. -/
def goodPacket : List StagedWord := [⟨5, false⟩, ⟨0, false⟩, ⟨2, false⟩, ⟨0xF9, false⟩]

theorem test_markWord : (left (exec (.markWord (lineOf 5 true)) (collecting goodPacket))).stream.staging = [⟨5, false⟩] := by
  decide +kernel
theorem test_streamWord : (left (exec (.streamWord (lineOf 2 false)) (collecting [⟨5, false⟩]))).stream.staging =
    [⟨5, false⟩, ⟨2, false⟩] := by decide +kernel
theorem test_framingError : (left (exec (.framingError (brokenLine 2)) (collecting goodPacket))).stream.counters.framing = 1 := by
  decide +kernel
theorem test_falseStart : (left (exec (.falseStart ⟨[], 0xFFFE⟩) stage)).stream = stage.stream := by decide +kernel
/-- A break of two words: one framing error (R119). -/
theorem test_break_counts_once :
    (left (exec (.framingError { brokenLine 2 with lead := [] }) (left (exec (.framingError (brokenLine 2))
      (collecting goodPacket))))).stream = (left (exec (.framingError (brokenLine 2)) (collecting goodPacket))).stream := by
  decide +kernel
/-- A word that was being sampled when the reset was taken is abandoned; the next, after a sample at 1, is not (R138). -/
theorem test_word_after_reset :
    (left (exec (.streamWord { lineOf 2 false with lead := [] }) stage)).stream.awaitsHigh = true ∧
    (left (exec (.streamWord (lineOf 2 false)) stage)).stream.awaitsHigh = false := by decide +kernel
/-- A NARROW value of 2 gives level 514 (R125). -/
theorem test_idle_accepts : (left (exec .idle (collecting goodPacket))).resolver.resolved.get 3 =
    { level := 514, leader := some .str } := by decide +kernel
theorem test_lossTimerExpiry : (left (exec .lossTimerExpiry (left (exec .idle (collecting goodPacket))))).stream.record.state =
    .lost := by decide +kernel
theorem test_por : (left (exec .resetEnd (left (exec .por stage)))).scenes.free = 512 ∧
    (left (exec .por stage)).resetState.lasting = some .por := by decide +kernel
theorem test_rst : ((left (exec .resetEnd (left (exec .rst stage)))).ports.get .cp0).notices = [restartedNotice 1 0xFF 0] := by
  decide +kernel
theorem test_resetEnd : (left (exec .resetEnd stage)).sessions = stage.sessions := by decide +kernel
theorem test_selectAssertion : sdoPin (left (exec (.selectAssertion .cp0) State.reset)) .cp0 = some true := by decide +kernel

/-- A link on which a transaction of the given code runs, with the bytes staged. -/
def linked (t : Transaction) (staging : List Byte) : Link :=
  { Link.idle with
    selected := true, transaction := some t, staging := staging, shifted := [0x88]
    head := match t with
      | .collectNotice => some (noticeBytes (restartedNotice 0 0xFF 0))
      | _ => none }

/-- The stage with such a link at CP0. -/
def linkedStage (l : Link) : State := { stage with ports := stage.ports.set .cp0 { stage.ports.get .cp0 with link := l } }

theorem test_submit : ((left (exec (.submit .cp0 .deassert) (linkedStage (linked .submit [3, 7, 0, 0])))).ports.get .cp0).outcome =
    .accepted := by decide +kernel
/-- Five of the body declared, three received (the worked sequence of chapter 9). -/
theorem test_submit_short : ((left (exec (.submit .cp0 .deassert)
    (linkedStage (linked .submit [0x11, 7, 0, 5, 0, 0, 0])))).ports.get .cp0).outcome = .discarded := by decide +kernel
theorem test_collect_empty : ((left (exec (.collect .cp0 .deassert) (linkedStage (linked .collect [])))).ports.get .cp0).link.selected =
    false := by decide +kernel
theorem test_collectNotice_short : ((left (exec (.collectNotice .cp0 .deassert)
    (linkedStage (linked .collectNotice [])))).ports.get .cp0).notices.length = 1 := by decide +kernel
theorem test_status : ((left (exec (.status .cp0 (.clock (bitsOfByte 0))) (linkedStage (linked .status [])))).ports.get
    .cp0).link.shifted = [0x88, 0] := by decide +kernel
theorem test_unrecognised : ((left (exec (.unrecognisedTransaction .cp0 .deassert)
    (linkedStage { Link.idle with selected := true, inBits := [true] })))).ports.get .cp0 = stage.ports.get .cp0 := by
  decide +kernel

/-! ### The hypotheses of the statements can be met

One theorem for each statement with hypotheses, with a state for each clause; operands stand at the ends of their ranges. -/

/-- The request of a kind, in execution at CP0 on a state, is admitted, and more holds of it. -/
abbrev Meets (s : State) (k : Kind) (body : List Nat) (more : Request → State → Prop) : Prop :=
  Admitted k .cp0 (ask k body) (ready .cp0 (ask k body) s) ∧ more (ask k body) (ready .cp0 (ask k body) s)

/-- The same, with no more asked. -/
abbrev Runs (s : State) (k : Kind) (body : List Nat) : Prop := Admitted k .cp0 (ask k body) (ready .cp0 (ask k body) s)

/-- The bounds on a port's queues, as one test of the whole state. -/
abbrev WithinBounds (s : State) : Prop :=
  ∀ p ∈ allPorts, (s.ports.get p).requests.length ≤ 8 ∧ (s.ports.get p).responses.length ≤ 8 ∧
    (s.ports.get p).notices.length ≤ 16 ∧ (s.ports.get p).lost ≤ 255

theorem queuesBounded_of {s : State} (h : WithinBounds s) : QueuesBounded s := fun p => h p (mem_allPorts p)

/-- The pool's equations, as one test of the whole state. -/
abbrev PoolAdds (s : State) : Prop :=
  (∀ src ∈ [Source.cp0, .cp1, .cp2, .str], claimCount s src = countClaims s.store.lists src) ∧
  cpClaims s.store.counts + s.store.free + s.store.counts.str + s.store.reservedUnused = 192 ∧
  s.store.counts.str + s.store.reservedUnused = s.stream.record.count ∧
  (∀ h, holds .str (s.store.lists.get h) = true → inRun s.stream.record.first s.stream.record.count h = true) ∧
  s.stream.record.first + s.stream.record.count ≤ 64

theorem poolSound_of {s : State} (h : PoolAdds s) : PoolSound s where
  counts src := h.1 src (by cases src <;> decide)
  entries := h.2.1
  reserved := h.2.2.1
  window := h.2.2.2.1
  fits := h.2.2.2.2

/-- The order of every list, as one test of the whole state. -/
abbrev InOrder (s : State) : Prop :=
  ∀ h, ((s.store.lists.get h).map (·.source)).Nodup ∧
    (s.store.lists.get h).Pairwise fun c d => priorityOf s d.source ≤ priorityOf s c.source

/-- What the claim statements ask of a state: bounded queues, the pool, ordered lists. -/
abbrev InShape (s : State) : Prop := WithinBounds s ∧ PoolAdds s ∧ InOrder s

theorem inShape_sound {s : State} (h : InShape s) : QueuesBounded s ∧ PoolSound s ∧ ListsOrdered s :=
  ⟨queuesBounded_of h.1, poolSound_of h.2.1, h.2.2⟩

/-- The stage with claims of CP0 and CP1 on channel 3. -/
def laden : State :=
  { stage with
    store := { lists := (Vector.replicate 64 []).set 3 [steady .cp0 100, steady .cp1 50], free := 190, reservedUnused := 0
               counts := ⟨1, 1, 0, 0⟩ } }

/-- The stage with claims of CP0, CP1 and CP2 on every channel: no entry is free. -/
def brimming : State :=
  { stage with
    store := { lists := Vector.replicate 64 [steady .cp0 1, steady .cp1 2, steady .cp2 3], free := 0, reservedUnused := 0
               counts := ⟨64, 64, 64, 0⟩ } }

/-- Claims of CP1 and CP2 on every channel, but that of CP1 on channel 0 in the first of the two, and a window of 64. -/
def crowded (full : Bool) : State :=
  { stage with
    store := { lists := (Vector.replicate 64 [steady .cp1 2, steady .cp2 3]).set 0
                 (if full then [steady .cp1 2, steady .cp2 3] else [steady .cp2 3])
               free := if full then 0 else 1, reservedUnused := 64, counts := ⟨0, if full then 64 else 63, 64, 0⟩ }
    stream := { StreamReceiver.reset with record := { StreamRecord.reset with state := .waiting, count := 64 } } }

/-- One free scene entry. -/
def oneEntryLeft : State := { stage with scenes := { SceneStore.afterPor with free := 1 } }

/-- A scene with two entries in place 31. -/
def withScene (s : State) : State := { s with scenes := storeScene 31 (.defined 9 [(0, 5), (63, 6)]) SceneStore.afterPor }

/-- A reset lasts. -/
def resetting (k : LastingReset) : State := { stage with resetState := { lasting := some k, pinLow := false } }

theorem outputSound_reset : OutputSound State.reset where
  position := by decide
  unit := by decide
  applied := by decide
  held := by decide
  accumulators := by decide +kernel
  pulses := by decide +kernel

/-- The frame timer at a place of the frame. -/
def framePlace (prescale position : Nat) : State :=
  { State.reset with output := { OutputGenerator.reset with prescaleApplied := prescale, position := position } }

theorem outputSound_framePlace {a b : Nat} (ha : 1 ≤ a ∧ a ≤ 64) (hb : b < 4096) : OutputSound (framePlace a b) where
  position := hb
  unit := ha.1
  applied := ha
  held := outputSound_reset.held
  accumulators := outputSound_reset.accumulators
  pulses := outputSound_reset.pulses

theorem witness_IdleStepIsACoreClock :
    (∃ s : State, s.pending = [] ∧ s.resetState.lasting ≠ none) ∧
    (∃ s : State, s.pending = [] ∧ s.resetState.lasting = none ∧ inExecution s = none) ∧
    (∃ s p r, s.pending = [] ∧ Executing p r s) ∧
    (∃ s, OutputSound s ∧ s.tickClocks + 1 < 32000 ∧ s.output.unitClocks + 1 < s.output.prescaleApplied) ∧
    (∃ s, OutputSound s ∧ s.tickClocks + 1 < 32000 ∧ s.output.unitClocks + 1 = s.output.prescaleApplied ∧
      s.output.position = 4094) ∧
    (∃ s, OutputSound s ∧ s.tickClocks + 1 < 32000 ∧ s.output.unitClocks + 1 = s.output.prescaleApplied ∧
      s.output.position = 4095) ∧
    ∃ s : State, 32000 = s.tickClocks + 1 :=
  ⟨⟨resetting .por, rfl, nofun⟩, ⟨State.reset, rfl, rfl, rfl⟩,
    ⟨ready .cp1 (ask .ping []) State.reset, .cp1, ask .ping [], rfl, rfl, rfl, rfl⟩,
    ⟨framePlace 2 0, outputSound_framePlace (by decide) (by decide), by decide, by decide⟩,
    ⟨framePlace 1 4094, outputSound_framePlace (by decide) (by decide), by decide, rfl, rfl⟩,
    ⟨framePlace 1 4095, outputSound_framePlace (by decide) (by decide), by decide, rfl, rfl⟩,
    ⟨{ State.reset with tickClocks := 31999 }, rfl⟩⟩

/-- The stage with a number of requests waiting at CP0. -/
def waitingAt (n : Nat) (s : State) : State :=
  { s with ports := s.ports.set .cp0 { s.ports.get .cp0 with requests := List.replicate n (ask .ping []) } }

theorem witness_SelectAssertionFormsTheStatusByte :
    ((linkedStage (linked .status [])).ports.get .cp0).link.selected = true ∧
    ((waitingAt 8 stage).ports.get .cp0).link.selected = false ∧ ((waitingAt 8 stage).ports.get .cp0).requests.length = 8 := by
  decide +kernel

/-- A link at a byte boundary before byte 0. -/
def fresh : Link := { Link.idle with selected := true, status := 0x88 }

theorem witness_FirstByteIsAnExchange :
    (AtByteBoundary ((linkedStage fresh).ports.get .cp0).link ∧ ((linkedStage fresh).ports.get .cp0).link.transaction = none ∧
      ((linkedStage fresh).ports.get .cp0).link.shifted = []) ∧
    ∃ x : Byte, x = 0xFF ∧ x ≠ 0x6C ∧ x ≠ 0x93 ∧ x ≠ 0x95 ∧ x ≠ 0xC1 := by
  exact ⟨by decide +kernel, 0xFF, by decide⟩

theorem witness_LaterBytesShiftOutTheEntryChosen :
    ∀ tr ∈ [Transaction.submit, .collect, .collectNotice, .status, .unrecognised 0], ∃ (n : Nat) (s : State),
      AtByteBoundary (s.ports.get .cp0).link ∧ (s.ports.get .cp0).link.transaction = some tr ∧
      (s.ports.get .cp0).link.shifted.length = n + 1 :=
  fun tr _ => ⟨0, linkedStage (linked tr []), ⟨rfl, rfl, rfl⟩, rfl, rfl⟩

/-- A SUBMIT of a PING on a link. -/
def submitting (staging : List Byte) : Link := linked .submit staging

theorem witness_SubmitDeassertionDecidesTheOutcome : ∃ s1 s2 s3 : State,
    ((s1.ports.get .cp0).link.selected = true ∧ (s1.ports.get .cp0).link.transaction = some .submit ∧
      (s1.ports.get .cp0).link.voided = false ∧ FallsShort (s1.ports.get .cp0).link.staging) ∧
    ((s2.ports.get .cp0).link.selected = true ∧ (s2.ports.get .cp0).link.transaction = some .submit ∧
      (s2.ports.get .cp0).link.voided = false ∧ ¬ FallsShort (s2.ports.get .cp0).link.staging ∧
      (s2.ports.get .cp0).requests.length = 8) ∧
    (s3.ports.get .cp0).link.selected = true ∧ (s3.ports.get .cp0).link.transaction = some .submit ∧
      (s3.ports.get .cp0).link.voided = false ∧ ¬ FallsShort (s3.ports.get .cp0).link.staging ∧
      (s3.ports.get .cp0).requests.length = 7 ∧ s3.resetState.lasting = none :=
  ⟨linkedStage (submitting [3, 7, 0]), waitingAt 8 (linkedStage (submitting [3, 7, 0, 0])),
    waitingAt 7 (linkedStage (submitting [3, 7, 0, 0])), by decide +kernel⟩

theorem witness_OnlyASubmitWritesTheOutcome :
    (∃ s t : State, (s.ports.get .cp0).link.selected = true ∧ (s.ports.get .cp0).link.transaction = some .submit ∧
      exec (.submit .cp0 .deassert) s = .next t) ∧
    (∃ t, exec .idle stage = .next t) ∧ (∃ t, exec .por stage = .next t) ∧
    (stage.resetState.lasting = none ∧ ∃ t, exec .rst stage = .next t) ∧
    Runs stage .restart [] ∧ ∃ t, exec .restart (ready .cp0 (ask .restart []) stage) = .next t :=
  ⟨⟨linkedStage (submitting [3, 7, 0, 0]), _, rfl, rfl, rfl⟩, ⟨_, rfl⟩, ⟨_, rfl⟩, ⟨rfl, _, rfl⟩, by decide +kernel, _, rfl⟩

/-- A link that has shifted out `n` bytes after byte 0, of an entry of 8. -/
def collected (t : Transaction) (n : Nat) : Link :=
  { linked t [] with
    shifted := 0x88 :: List.replicate n 0, head := some (noticeBytes (restartedNotice 0 0xFF 0)) }

theorem witness_DeassertionRemovesAWholeEntry :
    (((linkedStage (collected .collect 8)).ports.get .cp0).link.transaction = some .collect ∧
      WholeEntryShifted ((linkedStage (collected .collect 8)).ports.get .cp0).link ∧
      (linkedStage (collected .collect 8)).resetState.lasting = none) ∧
    (((linkedStage (collected .collectNotice 8)).ports.get .cp0).link.transaction = some .collectNotice ∧
      WholeEntryShifted ((linkedStage (collected .collectNotice 8)).ports.get .cp0).link) ∧
    (((linkedStage (collected .collect 7)).ports.get .cp0).link.transaction = some .collect ∧
      ¬ WholeEntryShifted ((linkedStage (collected .collect 7)).ports.get .cp0).link) ∧
    (((linkedStage (collected .collectNotice 7)).ports.get .cp0).link.transaction = some .collectNotice ∧
      ¬ WholeEntryShifted ((linkedStage (collected .collectNotice 7)).ports.get .cp0).link) ∧
    (∀ tr, ((linkedStage (linked tr [])).ports.get .cp0).link.transaction = some tr) ∧
    ((linkedStage fresh).ports.get .cp0).link.transaction = none ∧
    ((linkedStage fresh).ports.get .cp0).link.selected = true := by
  have short : ∀ l : Link, l.head = some (noticeBytes (restartedNotice 0 0xFF 0)) → l.shifted.length = 8 →
      ¬ WholeEntryShifted l := by
    intro l hh hl ⟨b, hb, _, hle⟩
    have : b = noticeBytes (restartedNotice 0 0xFF 0) := by simpa [hb] using hh
    subst this
    have h8 : (noticeBytes (restartedNotice 0 0xFF 0)).length = 8 := by decide
    omega
  exact ⟨⟨rfl, ⟨_, rfl, rfl, by decide⟩, rfl⟩, ⟨rfl, _, rfl, rfl, by decide⟩, ⟨rfl, short _ rfl rfl⟩, ⟨rfl, short _ rfl rfl⟩,
    fun _ => rfl, rfl, rfl⟩

theorem witness_SubmitTransactionDeliversTheRequest : ∃ (s : State) (empty full : List Byte),
    (s.ports.get .cp0).link.selected = false ∧ s.resetState.lasting = none ∧ (s.ports.get .cp0).requests.length = 7 ∧
    empty.length = 0 ∧ full.length = 200 :=
  ⟨waitingAt 7 stage, [], List.replicate 200 0, rfl, rfl, rfl, rfl, List.length_replicate⟩

theorem witness_CollectTransactionDeliversTheResponse : ∃ (s : State) (x : Response) (rs : List Response) (filler : List Byte),
    (s.ports.get .cp0).link.selected = false ∧ s.resetState.lasting = none ∧ (s.ports.get .cp0).requests.length ≤ 8 ∧
    (s.ports.get .cp0).responses = x :: rs ∧ filler.length = 5 + x.body.length :=
  ⟨ran .cp0 .ping [] stage, _, _, List.replicate 9 0, rfl, rfl, by decide +kernel, rfl, rfl⟩

theorem witness_EarlyChecksRefuseInOrder :
    (Executing .cp0 (ask .ping [0]) (ready .cp0 (ask .ping [0]) stage) ∧ (ask .ping [0]).kind = Kind.ping.code ∧
      lengthFits .ping (ask .ping [0]) = false) ∧
    (Executing .cp1 (ask .restart []) (ready .cp1 (ask .restart []) State.reset) ∧
      (ask .restart []).kind = Kind.restart.code ∧ lengthFits .restart (ask .restart []) = true ∧
      rightHeld .restart ((ready .cp1 (ask .restart []) State.reset).sessions.get .cp1).rights = false) ∧
    Executing .cp0 (ask .hold []) (ready .cp0 (ask .hold []) State.reset) ∧ (ask .hold []).kind = Kind.hold.code ∧
      lengthFits .hold (ask .hold []) = true ∧
      rightHeld .hold ((ready .cp0 (ask .hold []) State.reset).sessions.get .cp0).rights = true ∧
      sessionRefusal .hold ((ready .cp0 (ask .hold []) State.reset).sessions.get .cp0).state = some .notAttached := by
  decide +kernel

theorem witness_UnknownKindsAreRefused : ∀ b ∈ [0x00, 0x50, 0xFF, 0x04, 0x4E],
    Executing .cp0 { ask .ping [] with kind := byteOf b } (ready .cp0 { ask .ping [] with kind := byteOf b } stage) ∧
    byteOf b ∉ allKinds.map Kind.code := by
  decide +kernel

/-- CP0 stays eligible while CP1 is served and another request reaches CP1. -/
theorem witness_TheSearchPassesNoEligiblePortTwice : ∃ t0 t1 t2 : State,
    eligible t0 .cp0 = true ∧ eligible t1 .cp0 = true ∧ eligible t2 .cp0 = true ∧
    eligible t0 .cp1 = true ∧ eligible t1 .cp1 = false ∧ eligible t2 .cp1 = true :=
  ⟨ready .cp1 (ask .ping []) (waitingAt 1 stage), waitingAt 1 stage, ready .cp1 (ask .ping []) (waitingAt 1 stage),
    by decide +kernel⟩

theorem witness_FieldsOutOfRangeAreRefused :
    Meets stage .attach [0x17, 0x71, 0, 0, 0, 0] (fun r _ => 6000 < r.num16 0) ∧
    Meets stage .attach [0, 0, 2, 0, 0, 0] (fun r _ => 1 < r.num 2) ∧
    Meets stage .attach [0, 0, 0, 0, 0, 8] (fun r _ => 7 < r.num 5) ∧
    Meets stage .setLevels [64, 1, 0, 0, 4, 0, 0] (fun r _ => 63 < r.num 0) ∧
    Meets stage .setLevels [0, 0, 0, 0, 4, 0, 0] (fun r _ => r.num 1 = 0) ∧
    Meets stage .setLevels [0, 65, 0, 0, 4, 0, 0] (fun r _ => 64 < r.num 1) ∧
    Meets stage .setLevels [63, 2, 0, 0, 4, 0, 0] (fun r _ => 64 < r.num 0 + r.num 1) ∧
    Meets stage .setLevels [63, 1, 0, 0, 8, 0, 0] (fun r _ => 7 < r.num 4) ∧
    Meets stage .release [0, 0, 0, 0, 0] (fun r _ => r.num 1 = 0) ∧
    Meets stage .release [0, 64, 0, 0, 2] (fun r _ => 1 < r.num 4) ∧
    Meets stage .releaseAll [0, 0, 2] (fun r _ => 1 < r.num 2) ∧
    Meets stage .recall [32, 0, 0, 0] (fun r _ => 31 < r.num 0) ∧
    Meets stage .recall [31, 16, 0, 0] (fun r _ => 15 < r.num 1) ∧
    Meets stage .defineScene [32, 0, 0, 1, 0, 0, 0] (fun r _ => 31 < r.num 0) ∧
    Meets stage .defineScene [0, 0, 0, 0] (fun r _ => r.num 3 = 0) ∧
    Meets stage .defineScene [0, 0, 0, 1, 64, 0, 0] (fun r _ => 0 < r.num 3 ∧ 63 < r.num (4 + 3 * 0)) ∧
    Meets stage .defineScene [0, 0, 0, 2, 5, 0, 0, 5, 0, 0] (fun r _ => 1 < r.num 3 ∧ r.num (4 + 3 * 1) ≤ r.num (4 + 3 * 0)) ∧
    Meets stage .eraseScene [32] (fun r _ => 31 < r.num 0) ∧
    Meets stage .captureScene [32, 0, 1, 0, 0] (fun r _ => 31 < r.num 0) ∧
    Meets stage .captureScene [0, 64, 1, 0, 0] (fun r _ => 63 < r.num 1) ∧
    Meets stage .readScene [32] (fun r _ => 31 < r.num 0) ∧
    Meets stage .readChannel [64] (fun r _ => 63 < r.num 0) ∧
    Meets stage .readLevels [1, 64, 0] (fun r _ => 64 < r.num 0 + r.num 1) ∧
    Meets stage .readLevels [0, 64, 2] (fun r _ => 1 < r.num 2) ∧
    Meets stage .readSource [4] (fun r _ => 3 < r.num 0) ∧
    Meets stage .readStream [2] (fun r _ => 1 < r.num 0) := by
  and_intros <;> decide +kernel

theorem witness_FieldsOutOfRangeAreRefused_configuration :
    Meets stage .configChannels [0, 65, 0, 0, 0, 0, 0, 0, 0, 0] (fun r _ => 64 < r.num 1) ∧
    Meets stage .configChannels [0, 64, 32, 0, 0, 0, 0, 0, 0, 0] (fun r _ => 31 < r.num 2) ∧
    Meets stage .configChannels [0, 64, 1, 2, 0, 0, 0, 0, 0, 0] (fun r _ => (r.byte 2).getLsbD 0 = true ∧ 1 < r.num 3) ∧
    Meets stage .configChannels [0, 64, 2, 0, 2, 0, 0, 0, 0, 0] (fun r _ => (r.byte 2).getLsbD 1 = true ∧ 1 < r.num 4) ∧
    Meets stage .configChannels [0, 64, 4, 0, 0, 2, 0, 0, 0, 0] (fun r _ => (r.byte 2).getLsbD 2 = true ∧ 1 < r.num 5) ∧
    Meets stage .configSource [4, 0] (fun r _ => 3 < r.num 0) ∧
    Meets stage .configSource [3, 8] (fun r _ => 7 < r.num 1) ∧
    Meets stage .configStream [255, 0, 0, 0, 0, 0, 0, 7, 3, 0xE8, 0, 0] (fun r _ => r.num 0 = 255) ∧
    Meets stage .configStream [0, 0, 64, 0, 0, 0, 0, 7, 3, 0xE8, 0, 0] (fun r _ => 63 < r.num 2) ∧
    Meets stage .configStream [0, 0, 0, 65, 0, 0, 0, 7, 3, 0xE8, 0, 0] (fun r _ => 64 < r.num 3) ∧
    Meets stage .configStream [0, 0, 1, 64, 0, 0, 0, 7, 3, 0xE8, 0, 0] (fun r _ => 64 < r.num 2 + r.num 3) ∧
    Meets stage .configStream [0, 255, 0, 2, 0, 0, 0, 7, 3, 0xE8, 0, 0] (fun r _ => 256 < r.num 1 + r.num 3) ∧
    Meets stage .configStream [0, 0, 0, 1, 2, 0, 0, 7, 3, 0xE8, 0, 0] (fun r _ => 1 < r.num 4) ∧
    Meets stage .configStream [0, 0, 0, 1, 0, 2, 0, 7, 3, 0xE8, 0, 0] (fun r _ => 1 < r.num 5) ∧
    Meets stage .configStream [0, 0, 0, 1, 0, 0, 16, 0, 3, 0xE8, 0, 0] (fun r _ => 4095 < r.num16 6) ∧
    Meets stage .configStream [0, 0, 0, 1, 0, 0, 0, 7, 0, 49, 0, 0] (fun r _ => r.num16 8 < 50) ∧
    Meets stage .configStream [0, 0, 0, 1, 0, 0, 0, 7, 7, 0xD1, 0, 0] (fun r _ => 2000 < r.num16 8) ∧
    Meets stage .configOutput [0, 1, 0, 0] (fun r _ => r.num 0 = 0) ∧
    Meets stage .configOutput [65, 1, 0, 0] (fun r _ => 64 < r.num 0) ∧
    Meets stage .configOutput [1, 3, 0, 0] (fun r _ => r.num 1 ∉ [1, 2, 4, 8]) ∧
    Meets stage .configOutput [1, 1, 0, 9] (fun r _ => 1 ≤ r.num16 2 ∧ r.num16 2 ≤ 9) ∧
    Meets stage .configOutput [1, 1, 0x13, 0x89] (fun r _ => 5000 < r.num16 2) ∧
    Meets stage .grant [3, 0] (fun r _ => 2 < r.num 0) ∧
    Meets stage .grant [2, 8] (fun r _ => 7 < r.num 1) := by
  and_intros <;> decide +kernel

/-- 65 entries make a body of 199 bytes, which a SUBMIT can still carry. -/
theorem witness_FieldsOutOfRangeAreRefused_entries :
    Meets stage .defineScene ([0, 0, 0, 65] ++ (List.replicate 65 [0, 0, 0]).flatten) (fun r _ => 64 < r.num 3) := by
  decide +kernel

theorem witness_AttachMakesTheSourcePresent :
    Meets State.reset .attach [0x17, 0x70, 1, 0xFF, 0xFF, 7] (fun r s =>
      WithinBounds s ∧ r.num16 0 = 6000 ∧ r.byte 2 = LossPolicy.release.code ∧ r.num 5 = 7) := by
  decide +kernel

theorem witness_DetachReleasesAndLeaves : Meets laden .detach [0, 0] (fun _ => InShape) := by decide +kernel

theorem witness_LapseActsByTheLossPolicy :
    (resetting .rst).resetState.lasting ≠ none ∧ keepaliveRuns (State.reset.sessions.get .cp0) = false ∧
    laden.resetState.lasting = none ∧ keepaliveRuns (laden.sessions.get .cp0) = true ∧ InShape laden := by
  decide +kernel

/-- The third: another port holds CONFIG, as on the stage. -/
theorem witness_GrantKeepsAConfigHolder :
    Meets State.reset .grant [0, 6] (fun r s => r.byte 0 = portCode .cp0 ∧ r.num 1 ≤ 7 ∧ (r.byte 1).getLsbD 0 = false ∧
      ∀ q ∈ [Port.cp1, .cp2], (s.sessions.get q).rights.config = false) ∧
    Meets State.reset .grant [2, 7] (fun r _ => r.byte 0 = portCode .cp2 ∧ r.num 1 = 7 ∧ (r.byte 1).getLsbD 0 = true) ∧
    Meets stage .grant [0, 0] (fun r s => r.byte 0 = portCode .cp0 ∧ (s.sessions.get .cp1).rights.config = true) := by
  decide +kernel

theorem witness_ConfigSourceResortsTheClaims :
    Meets laden .configSource [1, 7] (fun r s => InShape s ∧ r.byte 0 = Source.cp1.code ∧ r.num 1 = (7 : Fin 8).val) := by
  decide +kernel

theorem witness_SetLevelsWritesTheRun :
    Meets (crowded true) .setLevels [0, 1, 0, 0, 4, 1, 2] (fun r s =>
      InShape s ∧ runInRange (r.num 0) (r.num 1) = true ∧ r.num 4 ≤ 7 ∧ s.store.free <
        countChannels fun h => inRun (r.num 0) (r.num 1) h && !holds (sourceOf .cp0) (s.store.lists.get h)) ∧
    Meets (crowded false) .setLevels [0, 1, 0, 0, 7, 1, 2] (fun r s =>
      InShape s ∧ runInRange (r.num 0) (r.num 1) = true ∧ r.num 4 = 7 ∧ s.store.free =
        countChannels fun h => inRun (r.num 0) (r.num 1) h && !holds (sourceOf .cp0) (s.store.lists.get h)) := by
  decide +kernel

theorem witness_ReleasesReleaseTheirChannels :
    Meets laden .release [0, 64, 0, 0, 1] (fun r s => InShape s ∧ runInRange (r.num 0) (r.num 1) = true ∧ r.num 4 = 1) ∧
    Meets laden .releaseAll [0xFF, 0xFF, 1] (fun r s => InShape s ∧ r.num 2 = 1) := by
  decide +kernel

theorem witness_RecallWritesTheScene :
    Meets stage .recall [31, 0, 0, 0] (fun r s => r.num 0 = (31 : Fin 32).val ∧ r.num 1 ≤ 15 ∧ s.scenes.scenes.get 31 = .empty) ∧
    Meets (withScene (crowded true)) .recall [31, 15, 0, 0] (fun r s => r.num 1 = 15 ∧
      s.scenes.scenes.get 31 = .defined 9 [(0, 5), (63, 6)] ∧ s.store.free < 2) ∧
    Meets (withScene laden) .recall [31, 15, 0, 0] (fun r s => InShape s ∧ r.num 1 = 15 ∧
      s.scenes.scenes.get 31 = .defined 9 [(0, 5), (63, 6)] ∧ 2 ≤ s.store.free) := by
  decide +kernel

theorem witness_ResolutionFollowsTheModes : ∃ (prio : Source → Fin 8) (l : List Claim),
    (l.Pairwise fun c d => prio d.source ≤ prio c.source) ∧ l = [steady .cp0 3, steady .cp1 9] :=
  ⟨fun _ => 3, _, by decide, rfl⟩

theorem witness_ConfigChannelsRecomputesTheRun :
    Meets laden .configChannels [0, 64, 0, 0, 0, 0, 0, 0, 0, 0] (fun r s =>
      WithinBounds s ∧ runInRange (r.num 0) (r.num 1) = true ∧ (r.byte 2).toNat ≤ 31) ∧
    Meets laden .configChannels [63, 1, 31, 1, 1, 1, 0xFF, 0xFF, 0, 1] (fun r s =>
      WithinBounds s ∧ runInRange (r.num 0) (r.num 1) = true ∧ (r.byte 2).toNat = 31 ∧ r.num 3 ≤ 1 ∧ r.num 4 ≤ 1 ∧ r.num 5 ≤ 1 ∧
      MergeMode.peak ≠ (s.resolver.config.get 63).mode) := by
  decide +kernel

theorem witness_OneStepOfAFade :
    ending.state = .releasing { start := 300, duration := 2, elapsed := 1, tag := 9 } ∧
    FadeRecord.elapsed { start := 300, duration := 2, elapsed := 1, tag := 9 } + 1 = 2 ∧
    FadeRecord.elapsed { start := 300, duration := 2, elapsed := 0, tag := 9 } + 1 < 2 ∧ (65534 : Nat) < 65535 ∧
    ending.source = sourceOf .cp0 ∧ ending.notify = true ∧ (steady .cp0 5).state = .steady := by
  decide

/-- The stage with the step timer running, and a claim at its last step. -/
def fadingStage : State :=
  { laden with
    store := { laden.store with lists := (Vector.replicate 64 []).set 3 [ending, steady .cp1 50] }
    fades := { period := 1, timer := some 1 } }

theorem witness_FadeStepAdvancesEveryFade :
    ((resetting .por).resetState.lasting ≠ none ∧ stage.fades.timer = none) ∧
    (laden.resetState.lasting = none ∧ anyMoving laden.store.lists = false) ∧
    fadingStage.resetState.lasting = none ∧ fadingStage.fades.timer ≠ none ∧ anyMoving fadingStage.store.lists = true ∧
      InShape fadingStage := by
  decide +kernel

theorem witness_FadeStepAdvancesEveryFade_still : ∃ s : State,
    s.resetState.lasting = none ∧ s.fades.timer ≠ none ∧ anyMoving s.store.lists = false :=
  ⟨{ laden with fades := { period := 8, timer := some 8 } }, by decide +kernel⟩

theorem witness_DefineAndCaptureStoreAScene :
    Meets oneEntryLeft .defineScene [31, 0, 0, 2, 0, 0, 7, 63, 0, 8] (fun r s =>
      r.num 3 = [((0 : Chan), (7 : Level)), (63, 8)].length ∧ r.num 4 = 0 ∧ r.word 5 = 7 ∧ r.num 7 = 63 ∧ r.word 8 = 8 ∧
      r.num 0 = (31 : Fin 32).val ∧ s.scenes.free < 2) ∧
    Meets oneEntryLeft .defineScene [31, 0, 0, 1, 63, 0, 7] (fun r s =>
      WithinBounds s ∧ r.num 3 = 1 ∧ r.num 4 = (63 : Chan).val ∧ r.word 5 = 7 ∧ s.scenes.free = 1) ∧
    Meets oneEntryLeft .captureScene [0, 0, 2, 0, 0] (fun r s => runInRange (r.num 1) (r.num 2) = true ∧ s.scenes.free < 2) ∧
    Meets oneEntryLeft .captureScene [31, 63, 1, 0, 0] (fun r s =>
      WithinBounds s ∧ runInRange (r.num 1) (r.num 2) = true ∧ s.scenes.free = 1) := by
  decide +kernel

theorem witness_EraseEmptiesAScene :
    Meets stage .eraseScene [0] (fun r s => r.num 0 = (0 : Fin 32).val ∧ s.scenes.scenes.get 0 = .empty) ∧
    Meets (withScene stage) .eraseScene [31] (fun r s => WithinBounds s ∧ r.num 0 = (31 : Fin 32).val ∧
      s.scenes.scenes.get 31 = .defined 9 [(0, 5), (63, 6)]) := by
  decide +kernel

/-- A WIDE packet with one level word pair, at slot 0. -/
def widePacket : List StagedWord := [⟨5, false⟩, ⟨0, false⟩, ⟨2, false⟩, ⟨3, false⟩, ⟨0xF6, false⟩]

theorem witness_SlotsMapThroughTheWindow : ∃ (rec : StreamRecord) (data : Nat → Byte),
    rec.width = .wide ∧ 3 ≤ widePacket.length ∧ (widePacket.length - 3) % 2 = 0 ∧
    (∀ i w, widePacket[i]? = some w → data i = w.data) ∧ mappedLevel rec widePacket 63 = some 0x0203 :=
  ⟨{ StreamRecord.reset with width := .wide, first := 63, count := 1 }, fun i => (widePacket[i]?.map (·.data)).getD 0,
    rfl, by decide, by decide, fun i w h => by show (widePacket[i]?.map (·.data)).getD 0 = w.data; rw [h]; rfl,
    by decide +kernel⟩

theorem witness_WordsReachThePacketLogic :
    (stage.resetState.lasting = none ∧ stage.stream.receiver = .muted ∧ stage.stream.awaitsHigh = true ∧
      true ∉ ({ lineOf 5 false with lead := [] } : WordSamples).lead ∧ true ∈ (lineOf 5 true).lead) ∧
    ((collecting goodPacket).resetState.lasting = none ∧ (collecting goodPacket).stream.receiver = .collecting ∧
      (collecting goodPacket).stream.awaitsHigh = false) ∧
    lineWord (lineOf 5 true) = .word 5 true false ∧ lineWord (lineOf 5 false) = .word 5 false false ∧
    lineWord (brokenLine 5) = .framing := by
  decide +kernel

/-- Samples 7 and 8 at 1 are a majority, sample 7 alone is not. -/
theorem witness_WordsReachThePacketLogic_bits : ∃ maj : BitSamples → Bool,
    (maj = fun b => decide (2 ≤ (b.getLsbD 7).toNat + (b.getLsbD 8).toNat + (b.getLsbD 9).toNat)) ∧
    maj 0x0180 = true ∧ maj 0x0080 = false :=
  ⟨_, rfl, by decide, by decide⟩

theorem witness_IdleDiscardsAFaultyPacket :
    (collecting goodPacket).resetState.lasting = none ∧ stage.stream.idleArmed = false ∧
    (collecting goodPacket).stream.idleArmed = true ∧ (collecting goodPacket).stream.receiver = .collecting ∧
    (∃ w ∈ (collecting [⟨5, true⟩]).stream.staging, w.noise = true) ∧
    ((∀ w ∈ (collecting [⟨5, false⟩, ⟨0, false⟩]).stream.staging, w.noise = false) ∧
      (collecting [⟨5, false⟩, ⟨0, false⟩]).stream.staging.length < 3) ∧
    (∀ w ∈ (collecting [⟨5, false⟩, ⟨0, false⟩, ⟨0, false⟩]).stream.staging, w.noise = false) ∧
      3 ≤ (collecting [⟨5, false⟩, ⟨0, false⟩, ⟨0, false⟩]).stream.staging.length ∧
      (collecting goodPacket).stream.record.width ≠ .wide ∧
      ((collecting [⟨5, false⟩, ⟨0, false⟩, ⟨0, false⟩]).stream.staging.map fun w => w.data.toNat).sum % 256 ≠ 0 := by
  decide +kernel

theorem witness_IdleDiscardsAFaultyPacket_muted : ∃ s : State,
    s.resetState.lasting = none ∧ s.stream.idleArmed = true ∧ s.stream.receiver = .muted :=
  ⟨{ stage with stream := { StreamReceiver.reset with idleArmed := true, awaitsHigh := false } }, rfl, rfl, rfl⟩

theorem streamSound_collecting : StreamSound (collecting goodPacket) where
  record := ⟨by decide, by decide, by decide, by decide, by decide, by decide, by decide, by decide⟩
  muted := nofun
  collecting := fun _ => by decide
  lossStopped := fun _ => rfl
  idle := fun _ => rfl
  counters := by decide

theorem witness_AcceptedPacketIsApplied :
    (collecting goodPacket).resetState.lasting = none ∧ (collecting goodPacket).stream.idleArmed = true ∧
    (collecting goodPacket).stream.receiver = .collecting ∧
    (∀ w ∈ (collecting goodPacket).stream.staging, w.noise = false) ∧ 3 ≤ (collecting goodPacket).stream.staging.length ∧
    (collecting goodPacket).stream.record.width ≠ .wide ∧
    ((collecting goodPacket).stream.staging.map fun w => w.data.toNat).sum % 256 = 0 ∧ InShape (collecting goodPacket) := by
  decide +kernel

/-- The stage with the stream LIVE. -/
def live : State :=
  { collecting [] with
    stream := { StreamReceiver.reset with
      record := { StreamRecord.reset with state := .live, id := 5, first := 3, count := 1 }, lossRemaining := 1 } }

theorem witness_LossActsByTheStreamsLossPolicy :
    (resetting .por).resetState.lasting ≠ none ∧ stage.stream.record.state ≠ .live ∧
    live.resetState.lasting = none ∧ live.stream.record.state = .live ∧ InShape live := by
  decide +kernel

/-- The record that the request of the witness asks for. -/
def askedRecord (count : Nat) : StreamRecord :=
  { StreamRecord.reset with state := .waiting, id := 254, count := count, width := .wide, lossPolicy := .release, lossFade := 1,
                            slotBase := 192, divisor := 4095, lostTimeout := 2000 }

/-- The body of the witness's request. -/
def askedBody (count : Nat) : List Nat := [254, 192, 0, count, 1, 1, 0x0F, 0xFF, 0x07, 0xD0, 0, 1]

/-- The request's fields give the record, which lies in its ranges. -/
abbrev RecordAsked (r : Request) (s : State) (x : StreamRecord) : Prop :=
  x.priority = s.stream.record.priority ∧ x.state = (if x.count = 0 then .off else .waiting) ∧ r.byte 0 = x.id ∧
  r.num 1 = x.slotBase ∧ r.num 2 = x.first ∧ r.num 3 = x.count ∧ r.byte 4 = x.width.code ∧ r.byte 5 = x.lossPolicy.code ∧
  r.num16 6 = x.divisor ∧ r.num16 8 = x.lostTimeout ∧ r.num16 10 = x.lossFade ∧ x.id ≠ 255 ∧ x.first ≤ 63 ∧ x.count ≤ 64 ∧
  x.first + x.count ≤ 64 ∧ x.slotBase + x.count ≤ 256 ∧ x.divisor ≤ 4095 ∧ 50 ≤ x.lostTimeout ∧ x.lostTimeout ≤ 2000

theorem witness_ConfigStreamMovesTheWindow :
    Meets brimming .configStream (askedBody 1) (fun r s =>
      RecordAsked r s (askedRecord 1) ∧ s.store.free + s.stream.record.count < 1) ∧
    Meets (crowded true) .configStream (askedBody 64) (fun r s =>
      RecordAsked r s (askedRecord 64) ∧ s.store.free + s.stream.record.count = 64 ∧ InShape s) := by
  and_intros <;> decide +kernel

theorem witness_ReadStreamReportsAndClears :
    Meets stage .readStream [0] (fun r _ => r.num 0 = 0) ∧ Meets stage .readStream [1] (fun r _ => r.num 0 = 1) := by
  decide +kernel

/-- The stage with CP0's hold timer running. -/
def heldStage : State := ran .cp0 .hold [] stage

theorem witness_HoldsAreSetClearedAndExpire :
    Runs stage .hold [] ∧ Runs heldStage .unhold [] ∧ (stage.output.holds.get .cp0).timer = none ∧
    heldStage.resetState.lasting = none ∧ (heldStage.output.holds.get .cp0).timer ≠ none ∧ WithinBounds heldStage := by
  decide +kernel

theorem witness_ConfigOutputWritesThreeItems :
    Meets stage .configOutput [64, 8, 0x13, 0x88] (fun r _ => r.num 0 = 64 ∧ r.num 1 ∈ [1, 2, 4, 8] ∧ r.num16 2 = 5000) ∧
    Meets stage .configOutput [1, 1, 0, 10] (fun r _ => r.num 0 = 1 ∧ r.num 1 ∈ [1, 2, 4, 8] ∧ r.num16 2 = 10) ∧
    Meets stage .configOutput [1, 1, 0, 0] (fun r _ => r.num16 2 = 0) := by
  decide +kernel

theorem witness_FrameStartShapesThePulses :
    (resetting .por).resetState.lasting ≠ none ∧ stage.resetState.lasting = none := by
  decide +kernel

/-- Level 1000 on every channel, from an accumulator. -/
def steadyLevel (acc : Nat) : State :=
  { stage with
    resolver := { LevelResolver.reset with resolved := Vector.replicate 64 ⟨1000, none⟩ }
    output := { OutputGenerator.reset with accumulator := Vector.replicate 64 acc } }

/-- A level of 1000 adds 8 at each frame: the accumulator is 0 and 8 by turns. -/
theorem witness_SixteenFramesGiveTheLevel : ∃ (before after : Nat → State) (h : Chan) (L : Level),
    (∀ i, i < 16 → (before i).resetState.lasting = none ∧ exec .frameStart (before i) = .next (after i) ∧
      ((before i).resolver.config.get h).enabled = true ∧ (after i).output.active.get h = L) ∧
    (∀ i, i < 15 → (before (i + 1)).output.accumulator.get h = (after i).output.accumulator.get h) ∧
    (before 0).output.accumulator.get h ≤ 15 :=
  ⟨fun i => steadyLevel (if i % 2 = 0 then 0 else 8), fun i => left (exec .frameStart (steadyLevel (if i % 2 = 0 then 0 else 8))),
    3, 1000,
    fun i _ => ⟨rfl, rfl, rfl, by rcases Nat.mod_two_eq_zero_or_one i with h | h <;> simp only [h] <;> decide +kernel⟩,
    by decide +kernel, by decide +kernel⟩

theorem witness_PinsFollowThePulsesAndQueues :
    (resetting .por).resetState.lasting ≠ none ∧ stage.resetState.lasting = none ∧ stage.output.position < 4096 ∧
    stage.output.pulse.get 63 ≤ 4096 := by
  decide +kernel

theorem witness_AHoldFreezesTheActiveLevels : anyHold heldStage.output.holds = true ∧ heldStage.resetState.lasting = none := by
  decide +kernel

theorem witness_ReadsReportAndChangeNothing :
    Runs stage .ping [] ∧
    Meets stage .readScene [0] (fun r s => r.num 0 = (0 : Fin 32).val ∧ s.scenes.scenes.get 0 = .empty) ∧
    Meets (withScene stage) .readScene [31] (fun r s => r.num 0 = (31 : Fin 32).val ∧
      s.scenes.scenes.get 31 = .defined 9 [(0, 5), (63, 6)]) ∧
    Meets stage .readLevels [0, 64, 1] (fun r _ => runInRange (r.num 0) (r.num 1) = true ∧ r.num 2 = 1) ∧
    Meets laden .readChannel [63] (fun r _ => r.num 0 = (63 : Chan).val) ∧
    Meets laden .readSource [2] (fun r _ => r.byte 0 = portCode .cp2) ∧
    Meets laden .readSource [3] (fun r _ => r.num 0 = 3) := by
  and_intros <;> decide +kernel

theorem witness_ReadStatusReportsAndClearsTheLostCount : Runs stage .readStatus [] := by decide +kernel

theorem witness_ResetValuesAreAsStated_and_TheLawsHoldAfterReset : ∃ s : State, s = State.reset := ⟨State.reset, rfl⟩

theorem witness_ResetsLeaveEveryBlockAtItsResetValues :
    stage.resetState.lasting = none ∧ Runs (withScene laden) .restart [] := by decide +kernel

/-- A SUBMIT that met the reset ends while it lasts: the link and the outcome have moved on, and nothing else. -/
theorem witness_ResetsLeaveEveryBlockAtItsResetValues_moved : ∃ u v : State,
    exec .rst (linkedStage (linked .submit [3, 7, 0, 0])) = .next u ∧ exec (.submit .cp0 .deassert) u = .next v ∧
    v.resetState.lasting = u.resetState.lasting ∧
    v = { u with ports := v.ports, resetState := v.resetState, pending := v.pending } ∧
    (∀ q, v.ports.get q = { u.ports.get q with link := (v.ports.get q).link, outcome := (v.ports.get q).outcome }) ∧
    (v.ports.get .cp0).outcome = .discarded :=
  ⟨_, _, rfl, rfl, rfl, rfl, fun q => by cases q <;> rfl, rfl⟩

theorem executorSound_resetting (k : LastingReset) : ExecutorSound (resetting k) where
  current := nofun
  waits := nofun
  quiet _ := ⟨rfl, fun p => by cases p <;> exact ⟨rfl, nofun⟩⟩

theorem witness_NothingRunsWhileAResetLasts : ∀ k : LastingReset,
    (resetting k).resetState.lasting = some k ∧ ExecutorSound (resetting k) ∧
    ((resetting k).ports.get .cp0).link.selected = false :=
  fun k => ⟨rfl, executorSound_resetting k, rfl⟩

/-- A link that a reset met. -/
theorem witness_NothingRunsWhileAResetLasts_selected : ∃ s : State, s.resetState.lasting ≠ none ∧ ExecutorSound s ∧
    (s.ports.get .cp0).link.selected = true := by
  refine ⟨{ resetting .por with
      ports := stage.ports.set .cp0 { stage.ports.get .cp0 with link := openLink true (stage.ports.get .cp0) } },
    nofun, ⟨nofun, nofun, fun _ => ⟨rfl, fun p => ?_⟩⟩, rfl⟩
  cases p <;> exact ⟨rfl, fun _ => by first | rfl | contradiction⟩

/-! The premises of the laws: the state after reset has them all, and so has a step from it. -/

theorem executorSound_reset : ExecutorSound State.reset where
  current := nofun
  waits _ _ p := by cases p <;> rfl
  quiet h := absurd rfl h

theorem witness_EveryStepKeepsTheQueuesAndTheExecutor : ∃ t, QueuesBounded State.reset ∧ ExecutorSound State.reset ∧
    step State.reset = .next t :=
  ⟨_, queuesBounded_of (by decide +kernel), executorSound_reset, rfl⟩

theorem witness_EveryStepKeepsAConfigHolder : ∃ t, ConfigHeld State.reset ∧ step State.reset = .next t := ⟨_, ⟨.cp0, rfl⟩, rfl⟩

theorem witness_EveryStepKeepsThePool : ∃ t, PoolSound laden ∧ step laden = .next t := ⟨_, poolSound_of (by decide +kernel), rfl⟩

theorem witness_EveryStepKeepsTheListsOrdered : ∃ t, ListsOrdered laden ∧ step laden = .next t :=
  ⟨_, show InOrder laden by decide +kernel, rfl⟩

theorem witness_EveryStepKeepsTheClaimsSound : ∃ t, ClaimsSound State.reset ∧ step State.reset = .next t :=
  ⟨_, ⟨fun h c hc => by simp [State.reset, ClaimStore.reset] at hc, fun p => by cases p <;> decide, by decide,
    by decide +kernel⟩, rfl⟩

theorem witness_EveryStepKeepsTheSessionsSound : ∃ t, PoolSound State.reset ∧ ListsOrdered State.reset ∧
    SessionsSound State.reset ∧ step State.reset = .next t :=
  ⟨_, poolSound_of (by decide +kernel), show InOrder State.reset by decide +kernel,
    ⟨fun p _ => by cases p <;> decide +kernel, fun p => by cases p <;> nofun, fun p _ => by cases p <;> rfl,
      fun p _ => by cases p <;> rfl, fun p h => absurd (by cases p <;> rfl) h⟩, rfl⟩

theorem witness_EveryStepKeepsTheResolvedRecords : ∃ t, ResolvedSound State.reset ∧ step State.reset = .next t :=
  ⟨_, ⟨by decide +kernel, by decide +kernel, fun h hne => absurd (by simp [State.reset, ClaimStore.reset]) hne,
    by decide +kernel⟩, rfl⟩

theorem witness_EveryStepKeepsTheScenePool : ∃ t, ScenesSound State.reset ∧ step State.reset = .next t :=
  ⟨_, ⟨by decide +kernel, by decide +kernel, by decide +kernel⟩, rfl⟩

theorem witness_EveryStepKeepsTheReceiverSound : ∃ t, StreamSound (collecting goodPacket) ∧
    step (collecting goodPacket) = .next t := ⟨_, streamSound_collecting, rfl⟩

theorem holdsSound_reset : HoldsSound State.reset where
  limit := Or.inr (by decide)
  started p := by cases p <;> exact Or.inl rfl
  timer p k h := by cases p <;> cases h

/-- The hold timer of CP0 runs from the greatest limit. -/
theorem holdsSound_running : ∃ s : State, HoldsSound s ∧ (s.output.holds.get .cp0).timer = some 5000 :=
  ⟨{ stage with output := { OutputGenerator.reset with
      holdLimit := 5000
      holds := OutputGenerator.reset.holds.set .cp0 { flag := true, timer := some 5000, tag := 7, startedLimit := 5000 } } },
    { limit := Or.inr (by decide)
      started := fun p => by cases p <;> first | exact Or.inl rfl | exact Or.inr (by decide)
      timer := fun p k h => by cases p <;> cases h; decide }, rfl⟩

theorem witness_EveryStepKeepsTheOutputAndTheStepTimer : ∃ t, OutputSound State.reset ∧ HoldsSound State.reset ∧
    FadeTimerSound State.reset ∧ step State.reset = .next t :=
  ⟨_, outputSound_reset, holdsSound_reset, ⟨by decide, fun _ => by decide +kernel⟩, rfl⟩

end Sys2Proof.Tests
end

section
/-! PROOFS. A step taken apart, said once for any property: what keeps it through every command and through the bookkeeping of the
clock keeps it through every step. -/

namespace Sys2Proof.Machine
open Sys2Proof Host

/-- The property survives what a step does outside the commands: the queue moves on, free values are used, and the frame timer, the
core clocks and the 1 ms timers count. -/
structure KeptByTheClock (P : State → Prop) : Prop where
  queue : ∀ s cs, P s → P { s with pending := cs }
  freeValues : ∀ s n, P s → P { s with freeCount := n }
  frameTimer : ∀ s, P s → P { s with output := (advanceFrame s.output).1 }
  coreClocks : ∀ s n, P s → P { s with tickClocks := n }
  timers : ∀ s, P s → P (tickTimers s)

/-- The property survives every command. -/
def KeptByCommands (P : State → Prop) : Prop := ∀ i s t, P s → exec i s = .next t → P t

section step
variable {P : State → Prop}

/-- A command that answers `t` keeps what `t` has. -/
theorem of_next {t u : State} (ht : P t) (h : (Outcome.next t : Outcome State Fault Refusal) = .next u) : P u :=
  Outcome.next.inj h ▸ ht

/-- An expiry is its row (R47, R71, R130, R141, R148). -/
theorem exec_command (e : TimerEvent) (s : State) : exec e.command s = .next (e.take s) := by
  cases e <;> rfl

theorem takeDue_keeps (hc : KeptByTheClock P) (he : KeptByCommands P) (due : List TimerEvent) {s : State} (hs : P s) :
    P (takeDue due s) := by
  have hfold : ∀ (es : List TimerEvent) (t : State), P t → P (es.foldl (fun t e => e.take t) t) := by
    intro es
    induction es with
    | nil => exact fun _ ht => ht
    | cons e es ih => exact fun t ht => ih _ (he _ _ _ ht (exec_command e t))
  exact hfold _ _ (hc.freeValues _ _ hs)

theorem coreClock_keeps (hc : KeptByTheClock P) (he : KeptByCommands P) {s : State} (hs : P s) : P (coreClock s) := by
  have hframe := hc.frameTimer s hs
  unfold coreClock
  dsimp only
  split
  · exact takeDue_keeps hc he _ (hc.coreClocks _ _ hframe)
  · exact takeDue_keeps hc he _ (hc.timers _ hframe)

theorem idleStep_keeps (hc : KeptByTheClock P) (he : KeptByCommands P) {s t : State} (hs : P s)
    (h : idleStep s = .next t) : P t := by
  unfold idleStep at h
  split at h
  · exact of_next hs h
  · split at h
    · exact of_next (coreClock_keeps hc he hs) h
    · have hused := hc.freeValues s (s.freeCount + 1) hs
      dsimp only at h
      split at h
      · exact he _ _ _ hused h
      · exact of_next (coreClock_keeps hc he hused) h

theorem step_keeps (hc : KeptByTheClock P) (he : KeptByCommands P) {s t : State} (hs : P s) (h : step s = .next t) : P t := by
  unfold step at h
  split at h
  · exact he _ _ _ (hc.queue _ _ hs) h
  · exact idleStep_keeps hc he hs h

end step

end Sys2Proof.Machine
end

section
/-! PROOFS. The commands that touch neither a claim nor a resolved record: their effect lies outside the Claim Store and the Level
Resolver. -/

namespace Sys2Proof.Machine
open Sys2Proof Host

/-- The Claim Store and the Level Resolver are as they were. -/
structure StoreKept (s t : State) : Prop where
  store : t.store = s.store
  resolver : t.resolver = s.resolver

theorem StoreKept.refl (s : State) : StoreKept s s := ⟨rfl, rfl⟩

theorem StoreKept.trans {s t u : State} (h : StoreKept s t) (k : StoreKept t u) : StoreKept s u :=
  ⟨k.store.trans h.store, k.resolver.trans h.resolver⟩

theorem StoreKept.complete {s : State} {y : Reply} (h : StoreKept s y.state) (p : Port) (r : Request) :
    StoreKept s (complete p r y) :=
  ⟨(complete_store p r y).trans h.store, (complete_resolver p r y).trans h.resolver⟩

theorem StoreKept.chooseNext {s t : State} (h : StoreKept s t) : StoreKept s (chooseNext t) :=
  ⟨(chooseNext_store t).trans h.store, (chooseNext_resolver t).trans h.resolver⟩

/-! ### Links (R154 to R162) -/

theorem submitEnd_storeKept (p : Port) (s : State) : StoreKept s (submitEnd p s) := by
  unfold submitEnd
  dsimp only
  split
  · exact ⟨rfl, rfl⟩
  · split
    · exact ⟨rfl, rfl⟩
    · split
      · exact ⟨rfl, rfl⟩
      · exact StoreKept.chooseNext ⟨rfl, rfl⟩

theorem collectEnd_storeKept (p : Port) (s : State) : StoreKept s (collectEnd p s) := by
  unfold collectEnd
  split
  · exact StoreKept.chooseNext ⟨rfl, rfl⟩
  · exact .refl s

theorem collectNoticeEnd_storeKept (p : Port) (s : State) : StoreKept s (collectNoticeEnd p s) := by
  unfold collectNoticeEnd
  split <;> exact ⟨rfl, rfl⟩

theorem transact_storeKept {atEnd : State → State} (hend : ∀ s, StoreKept s (atEnd s))
    (isThis : Option Transaction → Bool) (p : Port) (act : LinkAct) (s : State) :
    StoreKept s (transact isThis atEnd p act s) := by
  unfold transact
  split
  · exact .refl s
  · cases act with
    | clock sdi =>
      dsimp only
      split <;> exact ⟨rfl, rfl⟩
    | deassert =>
      dsimp only
      split
      · exact StoreKept.trans (t := updLink p deselect s) ⟨rfl, rfl⟩ (hend _)
      · exact .refl s

/-! ### Requests of the sessions and the output generator (R65, R69, R78, R146, R147, R152) -/

theorem runAttach_storeKept (p : Port) (r : Request) (s : State) : StoreKept s (runAttach p r s).state := by
  unfold runAttach
  split
  · exact .refl s
  · split
    · exact .refl s
    · dsimp only [answer]
      split <;> exact ⟨rfl, rfl⟩

theorem runGrant_storeKept (p : Port) (r : Request) (s : State) : StoreKept s (runGrant p r s).state := by
  unfold runGrant
  split
  · exact .refl s
  · split
    · exact .refl s
    · dsimp only
      split <;> exact ⟨rfl, rfl⟩

theorem runConfigOutput_storeKept (p : Port) (r : Request) (s : State) : StoreKept s (runConfigOutput p r s).state := by
  unfold runConfigOutput
  split <;> exact ⟨rfl, rfl⟩

theorem setPriority_storeKept (src : Source) (n : Fin 8) (s : State) : StoreKept s (setPriority src n s) := by
  unfold setPriority
  split <;> exact ⟨rfl, rfl⟩

/-! ### Requests of the scene store (R106 to R110) -/

theorem writeScene_storeKept (p : Port) (tag : Byte) (n : Fin 32) (fade : Nat) (es : List (Chan × Level)) (s : State) :
    StoreKept s (writeScene p tag n fade es s).state := by
  unfold writeScene
  dsimp only
  split <;> exact ⟨rfl, rfl⟩

theorem runDefineScene_storeKept (p : Port) (r : Request) (s : State) : StoreKept s (runDefineScene p r s).state := by
  unfold runDefineScene
  split
  · exact .refl s
  · split
    · exact .refl s
    · split
      · exact .refl s
      · exact writeScene_storeKept ..

theorem runEraseScene_storeKept (p : Port) (r : Request) (s : State) : StoreKept s (runEraseScene p r s).state := by
  unfold runEraseScene
  split
  · exact .refl s
  · dsimp only [answer]
    split <;> exact ⟨rfl, rfl⟩

theorem runCaptureScene_storeKept (p : Port) (r : Request) (s : State) : StoreKept s (runCaptureScene p r s).state := by
  unfold runCaptureScene
  split
  · exact .refl s
  · split
    · exact .refl s
    · exact writeScene_storeKept ..

theorem runReadScene_storeKept (p : Port) (r : Request) (s : State) : StoreKept s (runReadScene p r s).state := by
  unfold runReadScene
  split <;> exact ⟨rfl, rfl⟩

/-! ### Reads (R136, R177 to R180) -/

theorem runReadChannel_storeKept (p : Port) (r : Request) (s : State) : StoreKept s (runReadChannel p r s).state := by
  unfold runReadChannel
  split <;> exact ⟨rfl, rfl⟩

theorem runReadLevels_storeKept (p : Port) (r : Request) (s : State) : StoreKept s (runReadLevels p r s).state := by
  unfold runReadLevels
  split <;> exact ⟨rfl, rfl⟩

theorem runReadSource_storeKept (p : Port) (r : Request) (s : State) : StoreKept s (runReadSource p r s).state := by
  unfold runReadSource
  split <;> exact ⟨rfl, rfl⟩

theorem runReadStream_storeKept (p : Port) (r : Request) (s : State) : StoreKept s (runReadStream p r s).state := by
  unfold runReadStream
  split
  · exact .refl s
  · dsimp only [answer]
    split <;> exact ⟨rfl, rfl⟩

/-! ### Events -/

theorem unknownKind_storeKept (s : State) : StoreKept s (unknownKind s) := by
  unfold unknownKind
  split
  · exact .refl s
  · split
    · exact .refl s
    · exact StoreKept.complete (.refl s) ..

theorem holdEvent_storeKept (p : Port) (s : State) : StoreKept s (holdEvent p s) := by
  unfold holdEvent
  split <;> exact ⟨rfl, rfl⟩

theorem frameEvent_storeKept (s : State) : StoreKept s (frameEvent s) := by
  unfold frameEvent
  split <;> exact ⟨rfl, rfl⟩

theorem selectAssertion_storeKept {p : Port} {s t : State} (h : execSelectAssertion p s = .next t) : StoreKept s t := by
  refine of_next (P := StoreKept s) ?_ h
  split <;> exact ⟨rfl, rfl⟩

theorem streamWord_storeKept (w : WordSamples) (s : State) : StoreKept s (streamWord w s) := by
  unfold streamWord
  split
  · exact .refl s
  · split <;> exact ⟨rfl, rfl⟩

theorem framingError_storeKept (w : WordSamples) (s : State) : StoreKept s (framingError w s) := by
  unfold framingError
  split
  · exact .refl s
  · split <;> exact ⟨rfl, rfl⟩

theorem falseStart_storeKept (w : StartSamples) (s : State) : StoreKept s (falseStart w s) := by
  unfold falseStart
  split <;> exact ⟨rfl, rfl⟩

end Sys2Proof.Machine
end

section
/-! PROOFS. O57: every step keeps the resolved records in agreement with the claim lists and the configuration (R28, R29, R31). A record
changes by a recomputation alone, which makes it agree; a channel that is not recomputed kept its configuration and the claims, order and
levels of its list (R10), and these are all that the agreement reads. -/

namespace Sys2Proof.Machine
open Sys2Proof Host

/-! ### One channel -/

/-- What `ResolvedSound` says of one channel: its configuration, its list, its resolved record. -/
structure RecordAgrees (cfg : ChannelConfig) (l : List Claim) (x : Resolved) : Prop where
  ceiling : x.level ≤ cfg.ceiling
  empty : l = [] → x = { level := clamp cfg.ceiling cfg.park, leader := none }
  led : l ≠ [] → ∃ c ∈ l, x = { level := clamp cfg.ceiling c.level, leader := some c.source }
  latest : cfg.mode = .latest → x.leader = l.head?.map (·.source)

theorem resolvedSound_iff (s : State) : ResolvedSound s ↔
    ∀ h, RecordAgrees (s.resolver.config.get h) (s.store.lists.get h) (s.resolver.resolved.get h) :=
  ⟨fun hs h => ⟨hs.ceiling h, hs.empty h, hs.led h, hs.latest h⟩,
   fun hs => ⟨fun h => (hs h).ceiling, fun h => (hs h).empty, fun h => (hs h).led, fun h => (hs h).latest⟩⟩

/-- A recomputed channel agrees, in either mode and under any priorities. -/
theorem recordAgrees_resolve (cfg : ChannelConfig) (prio : Source → Fin 8) (l : List Claim) :
    RecordAgrees cfg l (resolve cfg prio l) where
  ceiling := resolve_level_le cfg prio l
  empty hl := by rw [hl, resolve_nil]
  led hl := by
    obtain ⟨c, hc, _, hr⟩ := resolve_led cfg prio hl
    exact ⟨c, hc, hr⟩
  latest := resolve_latest cfg prio l

@[simp] theorem listKey_eq_nil {l : List Claim} : listKey l = [] ↔ l = [] := List.map_eq_nil_iff

theorem mem_listKey {l : List Claim} {k : Source × Level} : k ∈ listKey l ↔ ∃ c ∈ l, (c.source, c.level) = k :=
  List.mem_map

theorem head?_source_eq_of_listKey {l m : List Claim} (h : listKey l = listKey m) :
    l.head?.map (·.source) = m.head?.map (·.source) := by
  have hkey : ∀ k : List Claim, k.head?.map (·.source) = (listKey k).head?.map (·.1) := fun k => by
    simp [listKey, Function.comp_def]
  rw [hkey, hkey, h]

/-- The agreement reads of a list only what the Level Resolver reads: a change that leaves that much leaves the agreement (R10). -/
theorem RecordAgrees.of_listKey {cfg : ChannelConfig} {l m : List Claim} {x : Resolved} (h : listKey l = listKey m)
    (ha : RecordAgrees cfg l x) : RecordAgrees cfg m x where
  ceiling := ha.ceiling
  empty hm := ha.empty (by rw [← listKey_eq_nil, h, hm]; rfl)
  led hm := by
    have hl : l ≠ [] := fun hl => hm (by rw [← listKey_eq_nil, ← h, hl]; rfl)
    obtain ⟨c, hc, hx⟩ := ha.led hl
    obtain ⟨d, hd, hdc⟩ := mem_listKey.1 (h ▸ mem_listKey.2 ⟨c, hc, rfl⟩ : (c.source, c.level) ∈ listKey m)
    obtain ⟨hsource, hlevel⟩ := Prod.mk.inj hdc
    exact ⟨d, hd, by rw [hx, hsource, hlevel]⟩
  latest hmode := (ha.latest hmode).trans (head?_source_eq_of_listKey h)

/-! ### The shared operations -/

/-- The law reads the claim lists and the Level Resolver alone. -/
theorem ResolvedSound.congr {s t : State} (hs : ResolvedSound s) (hl : t.store.lists = s.store.lists)
    (hr : t.resolver = s.resolver) : ResolvedSound t := by
  rw [resolvedSound_iff] at hs ⊢
  rwa [hl, hr]

theorem ResolvedSound.of_storeKept {s t : State} (hs : ResolvedSound s) (h : StoreKept s t) : ResolvedSound t :=
  hs.congr (by rw [h.store]) h.resolver

theorem resolvedSound_keptByTheClock : KeptByTheClock ResolvedSound where
  queue _ _ hs := hs.congr rfl rfl
  freeValues _ _ hs := hs.congr rfl rfl
  frameTimer _ hs := hs.congr rfl rfl
  coreClocks _ _ hs := hs.congr rfl rfl
  timers _ hs := hs.congr rfl rfl

/-- A Claim Store change recomputes what it hands on, and leaves to every other channel what its record rests on (R10, R32). -/
theorem applyChange_resolvedSound {s : State} (hs : ResolvedSound s) (lists : Vector (List Claim) 64)
    (done : Chan → List Addressed) : ResolvedSound (applyChange lists done s) := by
  rw [resolvedSound_iff] at hs ⊢
  intro h
  rw [applyChange_store, storeWith_lists, applyChange_resolver, committedResolver_config, committedResolver_get]
  split
  · next hkey => exact (hs h).of_listKey hkey
  · exact recordAgrees_resolve ..

/-- After every reset each list is empty and each record shows park 0 (R24, R25, R27). -/
theorem resolvedSound_of_reset {s : State} (hl : s.store = ClaimStore.reset) (hr : s.resolver = LevelResolver.reset) :
    ResolvedSound s := by
  rw [resolvedSound_iff, hl, hr]
  intro h
  have := recordAgrees_resolve ChannelConfig.reset (priorityOf s) []
  simpa [ClaimStore.reset, LevelResolver.reset, ChannelConfig.reset, clamp] using this

/-- A request keeps the law if its run does: a refusal and the end of the execution touch no claim. -/
theorem execute_resolvedSound {run : Port → Request → State → Reply} {s : State} (hs : ResolvedSound s)
    (hrun : ∀ p r, ResolvedSound (run p r s).state) (k : Kind) : ResolvedSound (execute k run s) := by
  obtain h | ⟨p, r, _, _, ⟨st, h⟩ | ⟨_, h⟩⟩ := execute_cases k run s
  · rwa [h]
  · rw [h]
    exact hs.of_storeKept (StoreKept.complete (.refl s) p r)
  · rw [h]
    exact (hrun p r).of_storeKept (StoreKept.complete (.refl _) p r)

theorem execute_resolvedSound_of_storeKept {run : Port → Request → State → Reply} {s : State} (hs : ResolvedSound s)
    (hrun : ∀ p r s, StoreKept s (run p r s).state) (k : Kind) : ResolvedSound (execute k run s) :=
  execute_resolvedSound hs (fun p r => hs.of_storeKept (hrun p r s)) k

/-! ### Requests that change claims -/

section requests
variable (p : Port) (r : Request) {s : State} (hs : ResolvedSound s)
include hs

theorem writeChange_resolvedSound (level : Chan → Option Level) (drop : Chan → Bool) (o : FadeOrder) (watch isRecall : Bool) :
    ResolvedSound (writeChange p level drop o watch isRecall s).state := by
  unfold writeChange
  dsimp only
  split
  · exact hs
  · exact applyChange_resolvedSound hs _ _

theorem runSetLevels_resolvedSound : ResolvedSound (runSetLevels p r s).state := by
  unfold runSetLevels
  dsimp only
  split
  · exact hs
  · exact writeChange_resolvedSound p hs ..

theorem runRelease_resolvedSound : ResolvedSound (runRelease p r s).state := by
  unfold runRelease
  split
  · exact hs
  · exact applyChange_resolvedSound hs _ _

theorem runReleaseAll_resolvedSound : ResolvedSound (runReleaseAll p r s).state := by
  unfold runReleaseAll
  split
  · exact hs
  · exact applyChange_resolvedSound hs _ _

theorem runRecall_resolvedSound : ResolvedSound (runRecall p r s).state := by
  unfold runRecall
  dsimp only
  split
  · exact hs
  · split
    · exact hs
    · split
      · exact hs
      · exact writeChange_resolvedSound p hs ..

theorem runDetach_resolvedSound : ResolvedSound (runDetach p r s).state := by
  unfold runDetach
  dsimp only [answer]
  generalize (if countClaims _ _ = 0 then SessionState.detached else SessionState.detaching) = new
  have ht : ∀ f, ResolvedSound (updSession p f (clearHold p s)) := fun _ => hs.congr rfl rfl
  split
  · exact applyChange_resolvedSound (ht _) _ _
  · exact (applyChange_resolvedSound (ht _) _ _).congr rfl rfl

/-- A re-sort that leaves a list's order leaves its record too; in PEAK mode it may then name another claim of the list than the one a
recomputation would name (R21, log 8), which the law allows. -/
theorem runConfigSource_resolvedSound : ResolvedSound (runConfigSource p r s).state := by
  unfold runConfigSource
  split
  · next src n _ _ =>
    exact applyChange_resolvedSound (hs.of_storeKept (setPriority_storeKept src n s)) _ _
  · exact hs

theorem runConfigStream_resolvedSound : ResolvedSound (runConfigStream p r s).state := by
  unfold runConfigStream
  split
  · split
    · exact hs
    · dsimp only
      split
      · exact hs
      · have ht : ∀ f, ResolvedSound (updStream f s) := fun _ => hs.congr rfl rfl
        exact (applyChange_resolvedSound (ht _) (withoutStream s) noneDone).congr rfl rfl
  · exact hs

/-- Outside its run a CONFIG_CHANNELS changes no configuration; within, it recomputes (R34, R42). -/
theorem runConfigChannels_resolvedSound : ResolvedSound (runConfigChannels p r s).state := by
  unfold runConfigChannels
  split
  · exact hs
  · split
    · exact hs
    · rw [resolvedSound_iff] at hs ⊢
      intro h
      simp only [answer, raise_resolver, raise_store, recompute, configuredTable, get_ofFn]
      split
      · exact recordAgrees_resolve ..
      · exact hs h

end requests

/-! ### Events that change claims -/

section events
variable {s : State} (hs : ResolvedSound s)
include hs

theorem fadeStep_resolvedSound : ResolvedSound (fadeStep s) := by
  unfold fadeStep
  split
  · exact hs
  · split
    · exact (applyChange_resolvedSound hs (steppedLists s) _).congr rfl rfl
    · exact hs.congr rfl rfl

theorem lapseEvent_resolvedSound (p : Port) : ResolvedSound (lapseEvent p s) := by
  unfold lapseEvent
  dsimp only
  split
  · exact hs
  · have ht : ∀ f, ResolvedSound (updSession p f (clearHold p s)) := fun _ => hs.congr rfl rfl
    split
    · exact hs.congr rfl rfl
    · exact (applyChange_resolvedSound (ht _) _ _).congr rfl rfl

theorem lossEvent_resolvedSound : ResolvedSound (lossEvent s) := by
  unfold lossEvent
  dsimp only
  split
  · exact hs
  · have ht : ∀ f, ResolvedSound (updStream f s) := fun _ => hs.congr rfl rfl
    split
    · exact hs.congr rfl rfl
    · exact (applyChange_resolvedSound (ht _) _ _).congr rfl rfl

theorem acceptPacket_resolvedSound (ws : List StagedWord) : ResolvedSound (acceptPacket ws s) := by
  unfold acceptPacket
  dsimp only
  have ht : ∀ f, ResolvedSound (updStream f s) := fun _ => hs.congr rfl rfl
  split
  · exact (applyChange_resolvedSound (ht _) _ _).congr rfl rfl
  · exact applyChange_resolvedSound (ht _) _ _

theorem endPacketIfAny_resolvedSound : ResolvedSound (endPacketIfAny s) := by
  unfold endPacketIfAny
  split
  · exact hs
  · have hmuted : ResolvedSound (updStream mute s) := hs.congr rfl rfl
    unfold endPacket
    dsimp only
    split
    case h_4 => exact acceptPacket_resolvedSound hmuted _
    all_goals exact hmuted.congr rfl rfl

theorem markWord_resolvedSound (w : WordSamples) : ResolvedSound (markWord w s) := by
  unfold markWord
  split
  · exact hs
  · split
    · exact (endPacketIfAny_resolvedSound hs).congr rfl rfl
    all_goals exact hs

theorem idleEvent_resolvedSound : ResolvedSound (idleEvent s) := by
  unfold idleEvent
  split
  · exact hs
  · exact endPacketIfAny_resolvedSound (hs.congr rfl rfl)

end events

/-! ### Resets (R182, R183) -/

theorem resetBlocks_resolvedSound (s : State) : ResolvedSound (resetBlocks s) := resolvedSound_of_reset rfl rfl

theorem por_resolvedSound {s t : State} (h : execPor s = .next t) : ResolvedSound t := by
  refine of_next (P := ResolvedSound) ?_ h
  exact resolvedSound_of_reset rfl rfl

theorem rstEvent_resolvedSound {s : State} (hs : ResolvedSound s) : ResolvedSound (rstEvent s) := by
  unfold rstEvent
  split
  · exact hs.congr rfl rfl
  · exact hs
  · exact (resetBlocks_resolvedSound s).congr rfl rfl

theorem resetEnd_resolvedSound {s : State} (hs : ResolvedSound s) : ResolvedSound (resetEnd s) := by
  unfold resetEnd
  split
  · exact hs
  all_goals exact hs.congr rfl rfl

theorem restartEvent_resolvedSound {s : State} (hs : ResolvedSound s) : ResolvedSound (restartEvent s) := by
  unfold restartEvent
  split
  · exact hs
  · split
    · split
      · exact hs.of_storeKept (StoreKept.complete (.refl s) ..)
      · exact (resetBlocks_resolvedSound s).congr rfl rfl
    · exact hs

/-! ### Every command -/

theorem exec_keeps_resolvedSound : KeptByCommands ResolvedSound := by
  intro i s t hs h
  cases i with
  | submit p act => exact of_next (hs.of_storeKept (transact_storeKept (submitEnd_storeKept p) _ p act s)) h
  | collect p act => exact of_next (hs.of_storeKept (transact_storeKept (collectEnd_storeKept p) _ p act s)) h
  | collectNotice p act => exact of_next (hs.of_storeKept (transact_storeKept (collectNoticeEnd_storeKept p) _ p act s)) h
  | status p act => exact of_next (hs.of_storeKept (transact_storeKept .refl _ p act s)) h
  | unrecognisedTransaction p act => exact of_next (hs.of_storeKept (transact_storeKept .refl _ p act s)) h
  | selectAssertion p => exact hs.of_storeKept (selectAssertion_storeKept h)
  | unknownKind => exact of_next (hs.of_storeKept (unknownKind_storeKept s)) h
  | attach => exact of_next (execute_resolvedSound_of_storeKept hs runAttach_storeKept _) h
  | detach => exact of_next (execute_resolvedSound hs (fun p r => runDetach_resolvedSound p r hs) _) h
  | ping => exact of_next (execute_resolvedSound_of_storeKept hs (fun _ _ => .refl) _) h
  | setLevels => exact of_next (execute_resolvedSound hs (fun p r => runSetLevels_resolvedSound p r hs) _) h
  | release => exact of_next (execute_resolvedSound hs (fun p r => runRelease_resolvedSound p r hs) _) h
  | releaseAll => exact of_next (execute_resolvedSound hs (fun p r => runReleaseAll_resolvedSound p r hs) _) h
  | hold => exact of_next (execute_resolvedSound_of_storeKept hs (fun _ _ _ => ⟨rfl, rfl⟩) _) h
  | unhold => exact of_next (execute_resolvedSound_of_storeKept hs (fun _ _ _ => ⟨rfl, rfl⟩) _) h
  | defineScene => exact of_next (execute_resolvedSound_of_storeKept hs runDefineScene_storeKept _) h
  | eraseScene => exact of_next (execute_resolvedSound_of_storeKept hs runEraseScene_storeKept _) h
  | captureScene => exact of_next (execute_resolvedSound_of_storeKept hs runCaptureScene_storeKept _) h
  | readScene => exact of_next (execute_resolvedSound_of_storeKept hs runReadScene_storeKept _) h
  | readStatus => exact of_next (execute_resolvedSound_of_storeKept hs (fun _ _ _ => ⟨rfl, rfl⟩) _) h
  | readChannel => exact of_next (execute_resolvedSound_of_storeKept hs runReadChannel_storeKept _) h
  | readLevels => exact of_next (execute_resolvedSound_of_storeKept hs runReadLevels_storeKept _) h
  | readSource => exact of_next (execute_resolvedSound_of_storeKept hs runReadSource_storeKept _) h
  | readStream => exact of_next (execute_resolvedSound_of_storeKept hs runReadStream_storeKept _) h
  | configChannels => exact of_next (execute_resolvedSound hs (fun p r => runConfigChannels_resolvedSound p r hs) _) h
  | configSource => exact of_next (execute_resolvedSound hs (fun p r => runConfigSource_resolvedSound p r hs) _) h
  | configStream => exact of_next (execute_resolvedSound hs (fun p r => runConfigStream_resolvedSound p r hs) _) h
  | configOutput => exact of_next (execute_resolvedSound_of_storeKept hs runConfigOutput_storeKept _) h
  | grant => exact of_next (execute_resolvedSound_of_storeKept hs runGrant_storeKept _) h
  | restart => exact of_next (restartEvent_resolvedSound hs) h
  | fadeStep => exact of_next (fadeStep_resolvedSound hs) h
  | lapse p => exact of_next (lapseEvent_resolvedSound hs p) h
  | holdTimerExpiry p => exact of_next (hs.of_storeKept (holdEvent_storeKept p s)) h
  | lossTimerExpiry => exact of_next (lossEvent_resolvedSound hs) h
  | frameStart => exact of_next (hs.of_storeKept (frameEvent_storeKept s)) h
  | markWord w => exact of_next (markWord_resolvedSound hs w) h
  | streamWord w => exact of_next (hs.of_storeKept (streamWord_storeKept w s)) h
  | framingError w => exact of_next (hs.of_storeKept (framingError_storeKept w s)) h
  | falseStart w => exact of_next (hs.of_storeKept (falseStart_storeKept w s)) h
  | idle => exact of_next (idleEvent_resolvedSound hs) h
  | por => exact por_resolvedSound h
  | rst => exact of_next (rstEvent_resolvedSound hs) h
  | resetEnd => exact of_next (resetEnd_resolvedSound hs) h
  -- RECALL: Mathlib makes its constructor's name a keyword, so it stands as the one case left.
  | _ => exact of_next (execute_resolvedSound hs (fun p r => runRecall_resolvedSound p r hs) _) h

/-- Settles O57: every command keeps the law, by `exec_keeps_resolvedSound`, and so does the clock; hence every step. -/
theorem everyStepKeepsTheResolvedRecords : Obligations.EveryStepKeepsTheResolvedRecords := by
  unfold Obligations.EveryStepKeepsTheResolvedRecords
  exact fun _ _ hs h => step_keeps resolvedSound_keptByTheClock exec_keeps_resolvedSound hs h

end Sys2Proof.Machine
end

section
/-! PROOFS. O28: one step of a fade (R50 to R54). The step's outcome is told apart once, by the claim's state and by whether the step is
the last one; the claim left and the notices raised are read off the outcome. The level rests on one fact of arithmetic: the truncated
part of the way grows with the steps taken and never passes the way. -/

namespace Sys2Proof.Machine
open Sys2Proof Host

/-! ### The level of a fade (R50) -/

section level
variable {S T : Level} {w D e e' : Nat}

/-- The part of a way `w` done after `e` of `D` steps never passes the way. -/
theorem mul_div_le_of_lt (he : e < D) : w * e / D ≤ w :=
  Nat.div_le_of_le_mul (by simpa only [Nat.mul_comm D] using Nat.mul_le_mul_left w he.le)

/-- A rising fade: truncation toward zero rounds the level down, toward the start. -/
theorem fadeLevel_toNat_of_le (he : e < D) (h : S ≤ T) :
    (fadeLevel S T D e).toNat = S.toNat + (T.toNat - S.toNat) * e / D := by
  have hST : S.toNat ≤ T.toNat := h
  have hpart : (T.toNat - S.toNat) * e / D ≤ T.toNat - S.toNat := mul_div_le_of_lt he
  have hway : Int.tdiv (((T.toNat : Int) - S.toNat) * e) D = ((T.toNat - S.toNat) * e / D : Nat) := by
    rw [← Nat.cast_sub hST, ← Nat.cast_mul, Int.ofNat_tdiv]
  rw [fadeLevel, hway, ← Nat.cast_add, BitVec.ofInt_natCast, BitVec.toNat_ofNat, Nat.mod_eq_of_lt (by omega)]

/-- A falling fade: the way is negative, and truncation toward zero rounds the level up, toward the start. -/
theorem fadeLevel_toNat_of_ge (he : e < D) (h : T ≤ S) :
    (fadeLevel S T D e).toNat = S.toNat - (S.toNat - T.toNat) * e / D := by
  have hTS : T.toNat ≤ S.toNat := h
  have hpart : (S.toNat - T.toNat) * e / D ≤ S.toNat - T.toNat := mul_div_le_of_lt he
  have hway : Int.tdiv (((T.toNat : Int) - S.toNat) * e) D = -((S.toNat - T.toNat) * e / D : Nat) := by
    rw [← neg_sub, ← Nat.cast_sub hTS, neg_mul, Int.neg_tdiv, ← Nat.cast_mul, Int.ofNat_tdiv]
  rw [fadeLevel, hway, ← sub_eq_add_neg, ← Nat.cast_sub (hpart.trans (Nat.sub_le _ _)), BitVec.ofInt_natCast,
    BitVec.toNat_ofNat, Nat.mod_eq_of_lt ((Nat.sub_le _ _).trans_lt S.isLt)]

/-- A later step of the fade is no further from the target: the levels are monotonic and never past it. -/
theorem fadeLevel_between_later (h : e ≤ e') (he' : e' < D) : between (fadeLevel S T D e) T (fadeLevel S T D e') := by
  have he : e < D := h.trans_lt he'
  rcases BitVec.le_total S T with hST | hTS
  · have hpart : (T.toNat - S.toNat) * e' / D ≤ T.toNat - S.toNat := mul_div_le_of_lt he'
    have hgrows : (T.toNat - S.toNat) * e / D ≤ (T.toNat - S.toNat) * e' / D := by gcongr
    left
    rw [BitVec.le_def, BitVec.le_def, fadeLevel_toNat_of_le he hST, fadeLevel_toNat_of_le he' hST]
    rw [BitVec.le_def] at hST
    omega
  · have hpart : (S.toNat - T.toNat) * e' / D ≤ S.toNat - T.toNat := mul_div_le_of_lt he'
    have hgrows : (S.toNat - T.toNat) * e / D ≤ (S.toNat - T.toNat) * e' / D := by gcongr
    right
    rw [BitVec.le_def, BitVec.le_def, fadeLevel_toNat_of_ge he hTS, fadeLevel_toNat_of_ge he' hTS]
    rw [BitVec.le_def] at hTS
    omega

/-- No step taken: the fade stands at its start. -/
theorem fadeLevel_zero : fadeLevel S T D 0 = S := by
  simp [fadeLevel]

theorem fadeLevel_between (he : e < D) : between S T (fadeLevel S T D e) := by
  have h0 := fadeLevel_between_later (S := S) (T := T) (Nat.zero_le e) he
  rwa [fadeLevel_zero] at h0

end level

/-! ### The outcome of a step (R50, R52, R53) -/

section outcome
variable {c d : Claim} {f : FadeRecord}

theorem stepClaim_steady (hs : c.state = .steady) : stepClaim c = .kept c := by
  simp [stepClaim, hs]

theorem stepClaim_fading_last (hs : c.state = .fading f) (hl : f.elapsed + 1 = f.duration) :
    stepClaim c = .completed { c with state := .steady, level := c.target } := by
  simp [stepClaim, hs, hl]

theorem stepClaim_releasing_last (hs : c.state = .releasing f) (hl : f.elapsed + 1 = f.duration) :
    stepClaim c = .removed := by
  simp [stepClaim, hs, hl]

theorem stepClaim_fading_early (hs : c.state = .fading f) (hl : f.elapsed + 1 < f.duration) :
    stepClaim c = .kept { c with
      state := .fading { f with elapsed := f.elapsed + 1 }
      level := fadeLevel f.start c.target f.duration (f.elapsed + 1) } := by
  simp [stepClaim, hs, hl.ne]

theorem stepClaim_releasing_early (hs : c.state = .releasing f) (hl : f.elapsed + 1 < f.duration) :
    stepClaim c = .kept { c with
      state := .releasing { f with elapsed := f.elapsed + 1 }
      level := fadeLevel f.start c.target f.duration (f.elapsed + 1) } := by
  simp [stepClaim, hs, hl.ne]

/-- Short of its last step a moving claim stays and moves on. -/
theorem stepClaim_early_kept (hs : c.state = .fading f ∨ c.state = .releasing f) (hl : f.elapsed + 1 < f.duration) :
    ∃ d, stepClaim c = .kept d := by
  rcases hs with hs | hs
  · exact ⟨_, stepClaim_fading_early hs hl⟩
  · exact ⟨_, stepClaim_releasing_early hs hl⟩

theorem steppedClaim_of_kept (h : stepClaim c = .kept d) : steppedClaim c = some d := by
  rw [steppedClaim, h]

theorem steppedClaim_of_completed (h : stepClaim c = .completed d) : steppedClaim c = some d := by
  rw [steppedClaim, h]

theorem steppedClaim_of_removed (h : stepClaim c = .removed) : steppedClaim c = none := by
  rw [steppedClaim, h]

end outcome

/-! ### FADE_DONE (R54) -/

section done
variable {h : Chan} {c d : Claim} {f : FadeRecord} {p : Port} {extra : BitVec 16}

theorem port?_sourceOf (p : Port) : Source.port? (sourceOf p) = some p := by
  cases p <;> rfl

theorem fadeTag_of_moving (hs : c.state = .fading f ∨ c.state = .releasing f) : fadeTag c = f.tag := by
  rcases hs with hs | hs <;> simp [fadeTag, hs]

theorem fadeDone_str (hc : c.source = .str) : fadeDone h c extra = [] := by
  simp [fadeDone, hc, Source.port?]

theorem fadeDone_of_not_notify (hn : c.notify = false) : fadeDone h c extra = [] := by
  cases hp : Source.port? c.source <;> simp [fadeDone, hp, hn]

theorem fadeDone_of_notify (hc : c.source = sourceOf p) (hs : c.state = .fading f ∨ c.state = .releasing f)
    (hn : c.notify = true) : fadeDone h c extra =
      [(p, { kind := .fadeDone, subject := portCode p, item := byteOf h.val, tag := f.tag, value := c.target,
             extra := extra })] := by
  simp [fadeDone, hc, port?_sourceOf, hn, fadeTag_of_moving hs, portCode]

theorem claimDone_of_kept (hk : stepClaim c = .kept d) : claimDone h c = [] := by
  rw [claimDone, hk]

theorem claimDone_of_completed (hk : stepClaim c = .completed d) : claimDone h c = fadeDone h c 0 := by
  rw [claimDone, hk]

theorem claimDone_of_removed (hk : stepClaim c = .removed) : claimDone h c = fadeDone h c 1 := by
  rw [claimDone, hk]

/-- A claim whose completion would raise nothing raises nothing at any step. -/
theorem claimDone_eq_nil (hd : ∀ extra, fadeDone h c extra = []) : claimDone h c = [] := by
  cases hk : stepClaim c with
  | kept d => exact claimDone_of_kept hk
  | completed d => rw [claimDone_of_completed hk, hd]
  | removed => rw [claimDone_of_removed hk, hd]

end done

/-! ### The statement -/

/-- Settles O28: the claim left and the notices raised by the outcome of the step, the level by its two directions. -/
theorem oneStepOfAFade : Obligations.OneStepOfAFade := by
  unfold Obligations.OneStepOfAFade
  refine ⟨?steady, ?last, ?early, ?level, ?str, ?port⟩
  case steady => exact fun c hs => steppedClaim_of_kept (stepClaim_steady hs)
  case last =>
    intro c f hl
    exact ⟨fun hs => steppedClaim_of_completed (stepClaim_fading_last hs hl),
      fun hs => steppedClaim_of_removed (stepClaim_releasing_last hs hl)⟩
  case early =>
    rintro c f _ hl rfl
    exact ⟨fun hs => steppedClaim_of_kept (stepClaim_fading_early hs hl),
      fun hs => steppedClaim_of_kept (stepClaim_releasing_early hs hl)⟩
  case level =>
    intro S T D e he
    exact ⟨fadeLevel_toNat_of_le he, fadeLevel_toNat_of_ge he, fadeLevel_between he,
      fun _ h he' => fadeLevel_between_later h he'⟩
  case str => exact fun h c hc => claimDone_eq_nil fun _ => fadeDone_str hc
  case port =>
    intro h c f p hc
    refine ⟨?still, ?silent, ?completes, ?ends⟩
    case still => exact fun hs => claimDone_of_kept (stepClaim_steady hs)
    case silent =>
      rintro hs (hl | hn)
      · obtain ⟨d, hk⟩ := stepClaim_early_kept hs hl
        exact claimDone_of_kept hk
      · exact claimDone_eq_nil fun _ => fadeDone_of_not_notify hn
    case completes =>
      intro hs hl hn
      rw [claimDone_of_completed (stepClaim_fading_last hs hl), fadeDone_of_notify hc (.inl hs) hn]
    case ends =>
      intro hs hl hn
      rw [claimDone_of_removed (stepClaim_releasing_last hs hl), fadeDone_of_notify hc (.inr hs) hn]

end Sys2Proof.Machine
end

section
/-! PROOFS. What a command can do, said once (R167, R168, R183): a command clocks or ends a transaction, makes a chain of block changes,
ends an execution after such a chain, starts a frame, or takes or ends a reset. A law that survives these survives every command. -/

namespace Sys2Proof.Machine
open Sys2Proof Host

/-! ### Block changes -/

/-- A number of fade steps that a request or a stored record can ask for (R1, R63, R100, R127). -/
def KnownFade (s : State) (n : Nat) : Prop :=
  n ≤ 65535 ∨ (∃ p, n = (s.sessions.get p).lossFade) ∨ n = s.stream.record.lossFade ∨
    ∃ k : Fin 32, n = sceneFade (s.scenes.scenes.get k)

/-- The seven counters lie at or below 65535 (R124). -/
abbrev CountersInRange (k : StreamCounters) : Prop :=
  k.accepted ≤ 65535 ∧ k.framing ≤ 65535 ∧ k.noise ≤ 65535 ∧ k.overlong ≤ 65535 ∧ k.short ≤ 65535 ∧ k.check ≤ 65535 ∧
    k.reconfigured ≤ 65535

/-- The claims that a write over the channels with a level creates (R13). -/
def neededClaims (src : Source) (level : Chan → Option Level) (s : State) : Nat :=
  countChannels fun h => (level h).isSome && !holds src (s.store.lists.get h)

/-- The lists after a write over the channels with a level, and a release on the others that `drop` names (R13, R14). -/
def writtenLists (src : Source) (level : Chan → Option Level) (drop : Chan → Bool) (o : FadeOrder) (watch : Bool) (s : State) :
    Vector (List Claim) 64 :=
  Vector.ofFn fun h => (level h).elim ((releasedLists src o (fun h => drop h && !(level h).isSome) s).get h)
    fun v => writeClaim (priorityOf s) src v o watch (s.store.lists.get h)

/-- The source record after a DETACH that leaves these lists (R67). -/
def departed (p : Port) (lists : Vector (List Claim) 64) (rec : SourceRecord) : SourceRecord :=
  { rec with
    state := if countClaims lists (sourceOf p) = 0 then .detached else .detaching
    keepaliveRemaining := 0 }

/-- The receiver when a packet is accepted, before the stream is set LIVE (R126). -/
def packetCounted (x : StreamReceiver) : StreamReceiver :=
  { mute x with
    counters := { x.counters with accepted := bump x.counters.accepted }
    lossRemaining := x.record.lostTimeout }

/-- WAITING and LOST become LIVE (R126). -/
def goLive (x : StreamReceiver) : StreamReceiver :=
  { x with record := { x.record with state := if x.record.state = .off then .off else .live } }

/-- The receiver after the expiry of the loss timer (R130). -/
def streamGone (x : StreamReceiver) : StreamReceiver :=
  { x with record := { x.record with state := .lost }, lossRemaining := 0 }

/-- One change of the blocks behind the control ports: of a port only its notice queue and its lost-notice count can change. A constructor
names the change and what the command has tested before it. -/
inductive Act (s : State) : State → Prop
  | raised (ns : List Addressed) : Act s (raise ns s)
  | lostCleared (p : Port) : Act s (updPort p (fun pi => { pi with lost := 0 }) s)
  | attached (p : Port) (period fade : Nat) (policy : LossPolicy) (subs : Subscriptions) (hfade : fade ≤ 65535) :
      Act s (updSession p (fun rec => restartKeepalive { rec with
        state := .attached, keepalivePeriod := period, lossPolicy := policy, lossFade := fade, subscriptions := subs }) s)
  | granted (p : Port) (x : Rights)
      (hlast : configHolders (updSession p (fun rec => { rec with rights := x }) s).sessions ≠ 0) :
      Act s (updSession p (fun rec => { rec with rights := x }) s)
  | detached (p : Port) (o : FadeOrder) (hfade : o.steps ≤ 65535) :
      Act s (applyChange (releasedLists (sourceOf p) o everywhere s) noneDone
        (updSession p (departed p (releasedLists (sourceOf p) o everywhere s)) (clearHold p s)))
  | lapsed (p : Port) :
      Act s (updSession p (fun rec => { rec with state := .lapsed, keepaliveRemaining := 0 }) (clearHold p s))
  | holdSet (p : Port) (tag : Byte) (hattached : (s.sessions.get p).state = .attached) :
      Act s (updHold p (setHold s.output.holdLimit tag) s)
  | holdCleared (p : Port) : Act s (clearHold p s)
  | outputConfigured (prescale period limit : Nat) (hprescale : 1 ≤ prescale ∧ prescale ≤ 64)
      (hperiod : period ∈ [1, 2, 4, 8]) (hlimit : limitInRange limit) :
      Act s { s with
        output := { s.output with prescaleHeld := prescale, holdLimit := limit }
        fades := { s.fades with period := period } }
  | configured (x : LevelResolver) : Act s { s with resolver := x }
  | released (src : Source) (o : FadeOrder) (on : Chan → Bool) (hfade : KnownFade s o.steps)
      (hstream : src = .str → o.notify = false)
      (hpresent : ∀ p, src = sourceOf p → (s.sessions.get p).state ≠ .detached ∧ (s.sessions.get p).state ≠ .detaching) :
      Act s (applyChange (releasedLists src o on s) noneDone s)
  | written (p : Port) (level : Chan → Option Level) (drop : Chan → Bool) (o : FadeOrder) (watch : Bool)
      (hfade : KnownFade s o.steps) (hattached : (s.sessions.get p).state = .attached)
      (hspace : neededClaims (sourceOf p) level s ≤ s.store.free) :
      Act s (applyChange (writtenLists (sourceOf p) level drop o watch s) noneDone s)
  | resorted (src : Source) (n : Fin 8) :
      Act s (applyChange (resortedLists src (setPriority src n s)) noneDone (setPriority src n s))
  | windowMoved (rec : StreamRecord) (hrecord : RecordSound rec) (hpriority : rec.priority = s.stream.record.priority)
      (hnotLive : rec.state ≠ .live) (hfade : rec.lossFade ≤ 65535)
      (hspace : rec.count ≤ s.store.free + s.stream.record.count) :
      Act s { applyChange (withoutStream s) noneDone (updStream (reconfigure rec) s) with
        store := { (applyChange (withoutStream s) noneDone (updStream (reconfigure rec) s)).store with
          free := s.store.free + s.stream.record.count - rec.count
          reservedUnused := rec.count } }
  | countersCleared : Act s (updStream (fun x => { x with counters := StreamCounters.zero }) s)
  | sceneStored (n : Fin 32) (sc : Scene)
      (hspace : (sceneEntriesOf sc).length ≤ s.scenes.free + (sceneEntriesOf (s.scenes.scenes.get n)).length)
      (hsize : sceneDefined sc = true → 1 ≤ (sceneEntriesOf sc).length ∧ (sceneEntriesOf sc).length ≤ 64)
      (hascending : (sceneEntriesOf sc).Pairwise fun a b => a.1 < b.1) (hfade : sceneFade sc ≤ 65535) :
      Act s { s with scenes := storeScene n sc s.scenes }
  | stepped : Act s (fadeStep s)
  | streamLost (hlive : s.stream.record.state = .live) : Act s (updStream streamGone s)
  | wordTaken : Act s (armIdle true (seek false s))
  | idleTaken : Act s (armIdle false s)
  | sought : Act s (seek false s)
  | framingFailed : Act s (armIdle false (seek true (updStream framingDiscard s)))
  | headerRead (data : Byte) (noise : Bool) : Act s (updStream (evaluateHeader data noise) s)
  | wordAppended (data : Byte) (noise : Bool) : Act s (updStream (appendWord data noise) s)
  | packetDropped (k : StreamCounters) (hcounters : CountersInRange s.stream.counters → CountersInRange k) :
      Act s (updStream (fun x => { mute x with counters := k }) s)
  | packetAccepted (ws : List StagedWord) (hcollecting : s.stream.receiver = .collecting) :
      Act s (updStream goLive (applyChange (appliedLists ws s) noneDone (updStream packetCounted s)))

/-- A chain of block changes. -/
abbrev Acts : State → State → Prop := Relation.ReflTransGen Act

theorem Act.one {s t : State} (h : Act s t) : Acts s t := .single h

theorem Acts.raise {s t : State} (h : Acts s t) (ns : List Addressed) : Acts s (raise ns t) := h.tail (.raised ns)

theorem Acts.andThen {s t u : State} (h : Acts s t) (ha : Act t u) : Acts s u := h.tail ha

theorem Acts.ite {c : Prop} [Decidable c] {s t u : State} (ht : Acts s t) (hu : Acts s u) : Acts s (if c then t else u) := by
  split
  · exact ht
  · exact hu

/-- What every block change keeps, a chain keeps. -/
theorem Acts.keep {P : State → Prop} (hact : ∀ s t, Act s t → P s → P t) {s t : State} (h : Acts s t) (hs : P s) : P t := by
  induction h with
  | refl => exact hs
  | tail _ ha ih => exact hact _ _ ha ih

/-! ### Commands -/

/-- What a command `i` can leave of a state. -/
inductive Effect (i : Instr) (s : State) : State → Prop
  | opened (p : Port) (hclosed : (s.ports.get p).link.selected = false) :
      Effect i s (updPort p (fun pi => { pi with link := openLink (resetLasts s) pi }) s)
  | clocked (p : Port) (sdi : List Bool) : Effect i s (updPort p (clockBits sdi) s)
  | deselected (p : Port) : Effect i s (updLink p deselect s)
  | submitted (p : Port) (hi : i = .submit p .deassert) (hsel : (s.ports.get p).link.selected = true) :
      Effect i s (submitEnd p (updLink p deselect s))
  | collected (p : Port) (hsel : (s.ports.get p).link.selected = true) : Effect i s (collectEnd p (updLink p deselect s))
  | noticeCollected (p : Port) : Effect i s (collectNoticeEnd p (updLink p deselect s))
  | changed {t : State} (h : Acts s t) : Effect i s t
  | executed (p : Port) (r : Request) (y : Reply) (he : Executing p r s) (h : Acts s y.state) : Effect i s (complete p r y)
  | frame (hi : i = .frameStart) (hr : s.resetState.lasting = none) : Effect i s (frameStart s)
  | por (hi : i = .por) : Effect i s { resetBlocks s with
      scenes := SceneStore.afterPor
      resetState := { lasting := some .por, pinLow := s.resetState.pinLow } }
  | rst (hi : i = .rst) (hr : s.resetState.lasting = none) :
      Effect i s { resetBlocks s with resetState := { lasting := some .rst, pinLow := true } }
  | rstDuringPor (hi : i = .rst) (hr : s.resetState.lasting = some .por) :
      Effect i s { s with resetState := { lasting := some .por, pinLow := true } }
  | resetEnded (hi : i = .resetEnd) (value : BitVec 16) (hr : s.resetState.lasting ≠ none) :
      Effect i s (leaveReset value 0xFF 0 s)
  | restarted (hi : i = .restart) (p : Port) (tag : Byte) : Effect i s (leaveReset 2 (portCode p) tag (resetBlocks s))

theorem Effect.refl (i : Instr) (s : State) : Effect i s s := .changed .refl

/-! ### Requests -/

section runs
variable {p : Port} {r : Request} {s : State}

/-- A 16-bit field is a fade that can be asked for. -/
theorem num16_le (r : Request) (i : Nat) : r.num16 i ≤ 65535 := Nat.le_of_lt_succ (r.word i).isLt

theorem num_le (r : Request) (i : Nat) : r.num i ≤ 255 := Nat.le_of_lt_succ (r.byte i).isLt

theorem sourceOf_ne_str (p : Port) : sourceOf p ≠ .str := by
  cases p <;> decide

theorem sourceOf_injective {p q : Port} (h : sourceOf p = sourceOf q) : p = q := by
  cases p <;> cases q <;> first | rfl | cases h

/-- A claim request is admitted in ATTACHED alone (R73). -/
theorem attached_of_sessionRefusal {k : Kind} {st : SessionState}
    (hk : k ∈ [Kind.setLevels, .release, .releaseAll, .recall, .hold, .unhold]) (h : sessionRefusal k st = none) :
    st = .attached := by
  fin_cases hk <;> cases st <;> simp_all [sessionRefusal]

theorem Admitted.attached {k : Kind} (h : Admitted k p r s)
    (hk : k ∈ [Kind.setLevels, .release, .releaseAll, .recall, .hold, .unhold]) : (s.sessions.get p).state = .attached := by
  obtain ⟨_, _, _, _, hsession⟩ := h
  exact attached_of_sessionRefusal hk hsession

theorem runAttach_acts : Acts s (runAttach p r s).state := by
  unfold runAttach
  split
  · exact .refl
  · split
    · exact .refl
    · dsimp only [answer]
      split
      · exact (Act.attached _ _ _ _ _ (num16_le r 3)).one
      · exact (Act.attached _ _ _ _ _ (num16_le r 3)).one.raise _

theorem runDetach_acts : Acts s (runDetach p r s).state := by
  unfold runDetach
  dsimp only [answer]
  have h := (Act.detached (s := s) p ⟨r.num16 0, r.tag, false⟩ (num16_le r 0)).one
  exact Acts.ite h (h.raise _)

theorem runGrant_acts : Acts s (runGrant p r s).state := by
  unfold runGrant
  split
  · exact .refl
  · split
    · exact .refl
    · dsimp only
      split
      · exact .refl
      · next h => exact (Act.granted _ _ h).one

theorem runConfigSource_acts : Acts s (runConfigSource p r s).state := by
  unfold runConfigSource
  split
  · exact (Act.resorted _ _).one
  · exact .refl

theorem writeChange_eq (level : Chan → Option Level) (drop : Chan → Bool) (o : FadeOrder) (watch isRecall : Bool) :
    writeChange p level drop o watch isRecall s =
      if s.store.free < neededClaims (sourceOf p) level s then
        { status := .noClaimSpace, body := [byteOf (neededClaims (sourceOf p) level s), byteOf s.store.free], state := s }
      else
        answer ([byteOf (neededClaims (sourceOf p) level s),
            byteOf (heldOn (sourceOf p) (fun h => (level h).isSome) s)] ++
          (if isRecall then [byteOf (heldOn (sourceOf p) (fun h => drop h && !(level h).isSome) s)] else []) ++
          [byteOf (applyChange (writtenLists (sourceOf p) level drop o watch s) noneDone s).store.free])
          (applyChange (writtenLists (sourceOf p) level drop o watch s) noneDone s) := by
  have hl : (Vector.ofFn fun h => match level h with
      | some v => writeClaim (priorityOf s) (sourceOf p) v o watch (s.store.lists.get h)
      | none => (releasedLists (sourceOf p) o (fun h => drop h && !(level h).isSome) s).get h) =
      writtenLists (sourceOf p) level drop o watch s := by
    unfold writtenLists
    congr 1
    funext h
    cases level h <;> rfl
  rw [← hl]
  rfl

theorem writeChange_acts (level : Chan → Option Level) (drop : Chan → Bool) (o : FadeOrder) (watch isRecall : Bool)
    (hfade : KnownFade s o.steps) (hattached : (s.sessions.get p).state = .attached) :
    Acts s (writeChange p level drop o watch isRecall s).state := by
  rw [writeChange_eq]
  split
  · exact .refl
  · next h => exact (Act.written p level drop o watch hfade hattached (not_lt.1 h)).one

theorem runSetLevels_acts (ha : (s.sessions.get p).state = .attached) : Acts s (runSetLevels p r s).state := by
  unfold runSetLevels
  dsimp only
  split
  · exact .refl
  · exact writeChange_acts _ _ _ _ _ (.inl (num16_le r 2)) ha

/-- A release by the source of an ATTACHED port. -/
theorem releaseChange_acts (o : FadeOrder) (on : Chan → Bool) (hfade : o.steps ≤ 65535)
    (ha : (s.sessions.get p).state = .attached) : Acts s (releaseChange p o on s).state := by
  refine (Act.released (sourceOf p) o on (.inl hfade) (fun h => absurd h (sourceOf_ne_str p)) fun q hq => ?_).one
  rw [← sourceOf_injective hq, ha]
  exact ⟨by decide, by decide⟩

theorem runRelease_acts (ha : (s.sessions.get p).state = .attached) : Acts s (runRelease p r s).state := by
  unfold runRelease
  split
  · exact .refl
  · exact releaseChange_acts _ _ (num16_le r 2) ha

theorem runReleaseAll_acts (ha : (s.sessions.get p).state = .attached) : Acts s (runReleaseAll p r s).state := by
  unfold runReleaseAll
  split
  · exact .refl
  · exact releaseChange_acts _ _ (num16_le r 0) ha

theorem runRecall_acts (ha : (s.sessions.get p).state = .attached) : Acts s (runRecall p r s).state := by
  unfold runRecall
  dsimp only
  split
  · exact .refl
  · next n _ =>
    split
    · exact .refl
    · split
      · exact .refl
      · next fade es hsc =>
        refine writeChange_acts _ _ _ _ _ ?_ ha
        dsimp only
        split
        · exact .inl (num16_le r 2)
        · exact .inr (.inr (.inr ⟨n, by rw [hsc]; rfl⟩))

theorem runHold_acts (ha : (s.sessions.get p).state = .attached) : Acts s (runHold p r s).state :=
  (Act.holdSet p r.tag ha).one

theorem runUnhold_acts : Acts s (runUnhold p r s).state := (Act.holdCleared p).one

theorem runConfigOutput_acts : Acts s (runConfigOutput p r s).state := by
  unfold runConfigOutput
  split
  · exact .refl
  · next h =>
    simp only [outputInRange, Bool.not_eq_false, Bool.and_eq_true, decide_eq_true_eq, Bool.or_eq_true,
      List.contains_iff_mem] at h
    obtain ⟨⟨⟨h1, h64⟩, hperiod⟩, hlimit⟩ := h
    exact (Act.outputConfigured (r.num 0) (r.num 1) (r.num16 2) ⟨h1, h64⟩ hperiod hlimit).one

theorem runConfigChannels_acts : Acts s (runConfigChannels p r s).state := by
  unfold runConfigChannels
  split
  · exact .refl
  · split
    · exact .refl
    · exact (Act.configured _).one.raise _

theorem streamRecordOf_sound {width : SlotWidth} {policy : LossPolicy} (old : StreamRecord) (h : streamInRange r = true) :
    RecordSound (streamRecordOf r width policy old) := by
  simp only [streamInRange, Bool.and_eq_true, decide_eq_true_eq] at h
  obtain ⟨⟨⟨⟨⟨⟨⟨hid, hfirst⟩, _⟩, hwindow⟩, hslots⟩, hdivisor⟩, hlow⟩, hhigh⟩ := h
  refine ⟨?_, hid, hfirst, hwindow, num_le r 1, hslots, hdivisor, hlow, hhigh⟩
  simp only [streamRecordOf]
  by_cases h0 : r.num 3 = 0 <;> simp [h0]

theorem runConfigStream_acts : Acts s (runConfigStream p r s).state := by
  unfold runConfigStream
  split
  · split
    · exact .refl
    · next hrange =>
      dsimp only
      split
      · exact .refl
      · next hspace =>
        refine (Act.windowMoved (streamRecordOf r _ _ s.stream.record)
          (streamRecordOf_sound _ (by simpa using hrange)) rfl ?_ (num16_le r 10) (not_lt.1 hspace)).one
        simp only [streamRecordOf]
        split <;> decide
  · exact .refl

theorem runReadStatus_acts : Acts s (runReadStatus p r s).state := (Act.lostCleared p).one

theorem runReadStream_acts : Acts s (runReadStream p r s).state := by
  unfold runReadStream
  split
  · exact .refl
  · dsimp only [answer]
    split
    · exact Act.countersCleared.one
    · exact .refl

theorem runReadScene_acts : Acts s (runReadScene p r s).state := by
  unfold runReadScene
  split <;> exact .refl

theorem runReadChannel_acts : Acts s (runReadChannel p r s).state := by
  unfold runReadChannel
  split <;> exact .refl

theorem runReadLevels_acts : Acts s (runReadLevels p r s).state := by
  unfold runReadLevels
  split <;> exact .refl

theorem runReadSource_acts : Acts s (runReadSource p r s).state := by
  unfold runReadSource
  split <;> exact .refl

/-! ### Scene requests (R105 to R109) -/

/-- The entries of a DEFINE_SCENE ascend, and the first is greater than the channel before them (R105). -/
theorem parseEntries_ascending {es : List (Chan × Level)} {i k : Nat} {after : Option Nat}
    (h : parseEntries r i after k = some es) :
    es.length = k ∧ (es.Pairwise fun a b => a.1 < b.1) ∧ ∀ a ∈ after, ∀ e ∈ es, a < e.1.val := by
  induction k generalizing i after es with
  | zero =>
    obtain rfl : [] = es := by simpa [parseEntries] using h
    simp
  | succ k ih =>
    unfold parseEntries at h
    split at h
    · cases h
    · next c _ =>
      split at h
      · next hafter =>
        obtain ⟨rest, hrest, rfl⟩ := Option.map_eq_some_iff.1 h
        obtain ⟨hlen, hasc, hfirst⟩ := ih hrest
        refine ⟨by simp [hlen], ?_, ?_⟩
        · exact List.pairwise_cons.2 ⟨fun e he => hfirst c.val rfl e he, hasc⟩
        · rintro a rfl e he
          have hac : a < c.val := by simpa using hafter
          rcases List.mem_cons.1 he with rfl | he
          · exact hac
          · exact hac.trans (hfirst c.val rfl e he)
      · cases h

theorem writeScene_acts (tag : Byte) (n : Fin 32) {fade : Nat} {es : List (Chan × Level)}
    (hsize : 1 ≤ es.length ∧ es.length ≤ 64) (hascending : es.Pairwise fun a b => a.1 < b.1) (hfade : fade ≤ 65535) :
    Acts s (writeScene p tag n fade es s).state := by
  unfold writeScene
  dsimp only
  split
  · exact .refl
  · next hspace =>
    exact (Act.sceneStored n (.defined fade es) (not_lt.1 hspace) (fun _ => hsize) hascending hfade).one.raise _

theorem runDefineScene_acts : Acts s (runDefineScene p r s).state := by
  unfold runDefineScene
  split
  · exact .refl
  · split
    · exact .refl
    · next hcount =>
      split
      · exact .refl
      · next es hes =>
        obtain ⟨hlen, hasc, _⟩ := parseEntries_ascending hes
        exact writeScene_acts _ _ (by omega) hasc (num16_le r 1)

theorem runEraseScene_acts : Acts s (runEraseScene p r s).state := by
  unfold runEraseScene
  split
  · exact .refl
  · next n _ =>
    dsimp only [answer]
    split
    · exact (Act.sceneStored n .empty (Nat.zero_le _) (by simp [sceneDefined]) (by simp [sceneEntriesOf])
        (Nat.zero_le _)).one.raise _
    · exact .refl

theorem runInRange_iff (first count : Nat) :
    runInRange first count = true ↔ first ≤ 63 ∧ 1 ≤ count ∧ count ≤ 64 ∧ first + count ≤ 64 := by
  simp [runInRange, and_assoc]

theorem inRun_iff (first count : Nat) (h : Chan) : inRun first count h = true ↔ first ≤ h.val ∧ h.val < first + count := by
  simp [inRun]

theorem allChannels_ascending : allChannels.Pairwise (· < ·) := List.pairwise_lt_finRange 64

/-- A run holds as many channels as it counts. -/
theorem countChannels_inRun {first count : Nat} (h : first + count ≤ 64) : countChannels (inRun first count) = count := by
  have hset : (allChannels.filter (inRun first count)).toFinset =
      (Finset.univ.filter fun x : Chan => first ≤ x.val ∧ x.val < first + count) := by
    ext x
    simp [inRun_iff]
  have hcard := List.toFinset_card_of_nodup ((List.nodup_finRange 64).filter (inRun first count))
  change (allChannels.filter (inRun first count)).toFinset.card = countChannels (inRun first count) at hcard
  rw [← hcard, hset, ← Finset.card_map Fin.valEmbedding]
  have himage : (Finset.univ.filter fun x : Chan => first ≤ x.val ∧ x.val < first + count).map Fin.valEmbedding =
      Finset.Ico first (first + count) := by
    ext x
    simp only [Finset.mem_map, Finset.mem_filter, Finset.mem_univ, true_and, Fin.valEmbedding_apply, Finset.mem_Ico]
    exact ⟨fun ⟨y, hy, hyx⟩ => hyx ▸ hy, fun hx => ⟨⟨x, by omega⟩, hx, rfl⟩⟩
  rw [himage, Nat.card_Ico, Nat.add_sub_cancel_left]

theorem runCaptureScene_acts : Acts s (runCaptureScene p r s).state := by
  unfold runCaptureScene
  split
  · exact .refl
  · split
    · exact .refl
    · next hrun =>
      obtain ⟨_, hone, h64, hend⟩ := (runInRange_iff _ _).1 (by simpa using hrun)
      have hlen := countChannels_inRun hend
      refine writeScene_acts _ _ ?_ ?_ (num16_le r 3)
      · rw [List.length_map]
        change 1 ≤ countChannels _ ∧ countChannels _ ≤ 64
        omega
      · rw [List.pairwise_map]
        exact allChannels_ascending.filter _

end runs

/-! ### Events -/

section events
variable (s : State)

theorem lapseEvent_acts (p : Port) : Acts s (lapseEvent p s) := by
  unfold lapseEvent
  dsimp only
  split
  · exact .refl
  · have hleft := (Act.lapsed (s := s) p).one
    split
    · exact hleft.raise _
    · refine (hleft.andThen (Act.released (sourceOf p) ⟨(s.sessions.get p).lossFade, 0, false⟩ everywhere
        (.inr (.inl ⟨p, by simp⟩)) (fun _ => rfl) fun q hq => ?_)).raise _
      rw [← sourceOf_injective hq]
      simp

theorem holdEvent_acts (p : Port) : Acts s (holdEvent p s) := by
  unfold holdEvent
  split
  · exact .refl
  · exact (Act.holdCleared p).one.raise _

theorem lossEvent_acts : Acts s (lossEvent s) := by
  unfold lossEvent
  dsimp only
  split
  · exact .refl
  · next h =>
    have hlost := (Act.streamLost (s := s) (by by_contra hl; exact h (.inr hl))).one
    split
    · exact hlost.raise _
    · exact (hlost.andThen (Act.released .str ⟨s.stream.record.lossFade, 0, false⟩ everywhere (.inr (.inr (.inl rfl)))
        (fun _ => rfl) fun q hq => absurd hq.symm (sourceOf_ne_str q))).raise _

theorem bump_le (n : Nat) : bump n ≤ 65535 := Nat.min_le_left ..

theorem goLive_of_left {s : State} (h : s.stream.record.state = .waiting ∨ s.stream.record.state = .lost) :
    updStream goLive s = updStream (fun x => { x with record := { x.record with state := .live } }) s := by
  rcases h with h | h <;> simp [updStream, goLive, h]

theorem goLive_of_stays {s : State} (h : ¬ (s.stream.record.state = .waiting ∨ s.stream.record.state = .lost)) :
    updStream goLive s = s := by
  have hstate : (if s.stream.record.state = .off then .off else .live) = s.stream.record.state := by
    revert h
    cases s.stream.record.state <;> simp
  rw [updStream, goLive, hstate]

/-- An accepted packet: the change of the lists, the stream LIVE, and STREAM_UP if it was not (R126). -/
theorem acceptPacket_eq (ws : List StagedWord) : acceptPacket ws (updStream mute s) =
    raise (if s.stream.record.state = .waiting ∨ s.stream.record.state = .lost then
        toSubscribers .stream (streamNotice .streamUp (s.stream.record.state.code.setWidth 16)
          (updStream goLive (applyChange (appliedLists ws s) noneDone (updStream packetCounted s))))
          (updStream goLive (applyChange (appliedLists ws s) noneDone (updStream packetCounted s))) else [])
      (updStream goLive (applyChange (appliedLists ws s) noneDone (updStream packetCounted s))) := by
  have hstate : (applyChange (appliedLists ws s) noneDone (updStream packetCounted s)).stream.record.state =
      s.stream.record.state := by
    rw [applyChange_stream]
    rfl
  by_cases hl : s.stream.record.state = .waiting ∨ s.stream.record.state = .lost
  · rw [if_pos hl, goLive_of_left (by rwa [hstate])]
    exact if_pos hl
  · rw [if_neg hl, raise_nil, goLive_of_stays (by rwa [hstate])]
    exact if_neg hl

theorem endPacket_acts (hc : s.stream.receiver = .collecting) : Acts s (endPacket s) := by
  unfold endPacket
  dsimp only
  split
  · exact (Act.packetDropped { s.stream.counters with noise := bump s.stream.counters.noise }
      fun ⟨h1, h2, _, h4⟩ => ⟨h1, h2, bump_le _, h4⟩).one
  · exact (Act.packetDropped { s.stream.counters with short := bump s.stream.counters.short }
      fun ⟨h1, h2, h3, h4, _, h6⟩ => ⟨h1, h2, h3, h4, bump_le _, h6⟩).one
  · exact (Act.packetDropped { s.stream.counters with check := bump s.stream.counters.check }
      fun ⟨h1, h2, h3, h4, h5, _, h7⟩ => ⟨h1, h2, h3, h4, h5, bump_le _, h7⟩).one
  · rw [acceptPacket_eq]
    exact (Act.packetAccepted s.stream.staging hc).one.raise _

theorem endPacketIfAny_acts : Acts s (endPacketIfAny s) := by
  unfold endPacketIfAny
  split
  · exact .refl
  · next hc => exact endPacket_acts s hc

theorem markWord_acts (w : WordSamples) : Acts s (markWord w s) := by
  unfold markWord
  split
  · exact .refl
  · split
    · exact ((endPacketIfAny_acts s).andThen .wordTaken).andThen (.headerRead _ _)
    all_goals exact .refl

theorem streamWord_acts (w : WordSamples) : Acts s (streamWord w s) := by
  unfold streamWord
  split
  · exact .refl
  · split
    · exact (Act.wordAppended _ _).one.andThen .wordTaken
    all_goals exact .refl

theorem framingError_acts (w : WordSamples) : Acts s (framingError w s) := by
  unfold framingError
  split
  · exact .refl
  · split
    · exact Act.framingFailed.one
    all_goals exact .refl

theorem falseStart_acts (w : StartSamples) : Acts s (falseStart w s) := .ite Act.sought.one .refl

theorem idleEvent_acts : Acts s (idleEvent s) := by
  unfold idleEvent
  split
  · exact .refl
  · exact Act.idleTaken.one.trans (endPacketIfAny_acts _)

end events

/-! ### Every command -/

section effects
variable {i : Instr} {s : State}

theorem execute_effect (k : Kind) {run : Port → Request → State → Reply}
    (hrun : ∀ p r, Admitted k p r s → Acts s (run p r s).state) : Effect i s (execute k run s) := by
  obtain h | ⟨p, r, he, _, ⟨st, h⟩ | ⟨ha, h⟩⟩ := execute_cases k run s
  · rw [h]
    exact .refl i s
  · rw [h]
    exact .executed p r _ he .refl
  · rw [h]
    exact .executed p r _ he (hrun p r ha)

/-- A transaction row whose deassertion has an effect of its own. -/
theorem transact_effect {isThis : Option Transaction → Bool} {atEnd : State → State} {p : Port} (act : LinkAct)
    (hend : act = .deassert → (s.ports.get p).link.selected = true → Effect i s (atEnd (updLink p deselect s))) :
    Effect i s (transact isThis atEnd p act s) := by
  unfold transact
  split
  · exact .refl i s
  · next hsel =>
    cases act with
    | clock sdi =>
      dsimp only
      split
      · exact .clocked p sdi
      · exact .refl i s
    | deassert =>
      dsimp only
      split
      · exact hend rfl (by simpa using hsel)
      · exact .refl i s

theorem unknownKind_effect : Effect i s (unknownKind s) := by
  unfold unknownKind
  split
  · exact .refl i s
  · next p r hx =>
    split
    · exact .refl i s
    · exact .executed p r _ ((inExecution_iff s p r).1 hx) .refl

theorem restartEvent_effect (hi : i = .restart) : Effect i s (restartEvent s) := by
  unfold restartEvent
  split
  · exact .refl i s
  · next p r hx =>
    split
    · split
      · exact .executed p r _ ((inExecution_iff s p r).1 hx) .refl
      · exact .restarted hi p r.tag
    · exact .refl i s

theorem rstEvent_effect (hi : i = .rst) : Effect i s (rstEvent s) := by
  unfold rstEvent
  split
  · next hr => exact .rstDuringPor hi hr
  · exact .refl i s
  · next hr => exact .rst hi hr

theorem resetEnd_effect (hi : i = .resetEnd) : Effect i s (resetEnd s) := by
  unfold resetEnd
  split
  · exact .refl i s
  · next hr => exact .resetEnded hi 0 (by simp [hr])
  · next hr => exact .resetEnded hi 1 (by simp [hr])

theorem frameEvent_effect (hi : i = .frameStart) : Effect i s (frameEvent s) := by
  unfold frameEvent resetLasts
  split
  · exact .refl i s
  · next hr => exact .frame hi (by simpa using hr)

theorem selectAssertion_effect (p : Port) : Effect i s (if (s.ports.get p).link.selected then s
    else updPort p (fun pi => { pi with link := openLink (resetLasts s) pi }) s) := by
  split
  · exact .refl i s
  · next h => exact .opened p (by simpa using h)

/-- The one case distinction over the rows: each answers a next state, and its effect is one of those that `Effect` names. -/
theorem exec_effect (i : Instr) (s : State) : ∃ t, exec i s = .next t ∧ Effect i s t := by
  match i with
  | .submit p act => exact ⟨_, rfl, transact_effect act fun ha hsel => .submitted p (by rw [ha]) hsel⟩
  | .collect p act => exact ⟨_, rfl, transact_effect act fun _ hsel => .collected p hsel⟩
  | .collectNotice p act => exact ⟨_, rfl, transact_effect act fun _ _ => .noticeCollected p⟩
  | .status p act => exact ⟨_, rfl, transact_effect act fun _ _ => .deselected p⟩
  | .unrecognisedTransaction p act => exact ⟨_, rfl, transact_effect act fun _ _ => .deselected p⟩
  | .selectAssertion p => exact ⟨_, rfl, selectAssertion_effect p⟩
  | .unknownKind => exact ⟨_, rfl, unknownKind_effect⟩
  | .attach => exact ⟨_, rfl, execute_effect _ fun _ _ _ => runAttach_acts⟩
  | .detach => exact ⟨_, rfl, execute_effect _ fun _ _ _ => runDetach_acts⟩
  | .ping => exact ⟨_, rfl, execute_effect _ fun _ _ _ => .refl⟩
  | .setLevels => exact ⟨_, rfl, execute_effect _ fun _ _ ha => runSetLevels_acts (ha.attached (by simp))⟩
  | .release => exact ⟨_, rfl, execute_effect _ fun _ _ ha => runRelease_acts (ha.attached (by simp))⟩
  | .releaseAll => exact ⟨_, rfl, execute_effect _ fun _ _ ha => runReleaseAll_acts (ha.attached (by simp))⟩
  | .recall => exact ⟨_, rfl, execute_effect _ fun _ _ ha => runRecall_acts (ha.attached (by simp))⟩
  | .hold => exact ⟨_, rfl, execute_effect _ fun _ _ ha => runHold_acts (ha.attached (by simp))⟩
  | .unhold => exact ⟨_, rfl, execute_effect _ fun _ _ _ => runUnhold_acts⟩
  | .defineScene => exact ⟨_, rfl, execute_effect _ fun _ _ _ => runDefineScene_acts⟩
  | .eraseScene => exact ⟨_, rfl, execute_effect _ fun _ _ _ => runEraseScene_acts⟩
  | .captureScene => exact ⟨_, rfl, execute_effect _ fun _ _ _ => runCaptureScene_acts⟩
  | .readScene => exact ⟨_, rfl, execute_effect _ fun _ _ _ => runReadScene_acts⟩
  | .readStatus => exact ⟨_, rfl, execute_effect _ fun _ _ _ => runReadStatus_acts⟩
  | .readChannel => exact ⟨_, rfl, execute_effect _ fun _ _ _ => runReadChannel_acts⟩
  | .readLevels => exact ⟨_, rfl, execute_effect _ fun _ _ _ => runReadLevels_acts⟩
  | .readSource => exact ⟨_, rfl, execute_effect _ fun _ _ _ => runReadSource_acts⟩
  | .readStream => exact ⟨_, rfl, execute_effect _ fun _ _ _ => runReadStream_acts⟩
  | .configChannels => exact ⟨_, rfl, execute_effect _ fun _ _ _ => runConfigChannels_acts⟩
  | .configSource => exact ⟨_, rfl, execute_effect _ fun _ _ _ => runConfigSource_acts⟩
  | .configStream => exact ⟨_, rfl, execute_effect _ fun _ _ _ => runConfigStream_acts⟩
  | .configOutput => exact ⟨_, rfl, execute_effect _ fun _ _ _ => runConfigOutput_acts⟩
  | .grant => exact ⟨_, rfl, execute_effect _ fun _ _ _ => runGrant_acts⟩
  | .restart => exact ⟨_, rfl, restartEvent_effect rfl⟩
  | .fadeStep => exact ⟨_, rfl, .changed Act.stepped.one⟩
  | .lapse p => exact ⟨_, rfl, .changed (lapseEvent_acts s p)⟩
  | .holdTimerExpiry p => exact ⟨_, rfl, .changed (holdEvent_acts s p)⟩
  | .lossTimerExpiry => exact ⟨_, rfl, .changed (lossEvent_acts s)⟩
  | .frameStart => exact ⟨_, rfl, frameEvent_effect rfl⟩
  | .markWord w => exact ⟨_, rfl, .changed (markWord_acts s w)⟩
  | .streamWord w => exact ⟨_, rfl, .changed (streamWord_acts s w)⟩
  | .framingError w => exact ⟨_, rfl, .changed (framingError_acts s w)⟩
  | .falseStart w => exact ⟨_, rfl, .changed (falseStart_acts s w)⟩
  | .idle => exact ⟨_, rfl, .changed (idleEvent_acts s)⟩
  | .por => exact ⟨_, rfl, .por rfl⟩
  | .rst => exact ⟨_, rfl, rstEvent_effect rfl⟩
  | .resetEnd => exact ⟨_, rfl, resetEnd_effect rfl⟩

theorem effect_of_exec {t : State} (h : exec i s = .next t) : Effect i s t := by
  obtain ⟨u, hu, he⟩ := exec_effect i s
  exact of_next (P := Effect i s) he (hu.symm.trans h)

end effects

end Sys2Proof.Machine
end

section
/-! PROOFS. Laws of the blocks behind the control ports: such a law reads neither queues, links nor the executor, so its step lemma asks
only for the block changes, the frame start, the resets and the clock. -/

namespace Sys2Proof.Machine
open Sys2Proof Host

/-! ### Frames of the remaining operations -/

section fadeStep
variable (s : State)

/-- An expiry of the step timer can change claims, the resolver, the timer and the emptied sources, and place notices. -/
theorem fadeStep_eq : fadeStep s =
    { s with
      ports := (fadeStep s).ports
      sessions := (fadeStep s).sessions
      store := (fadeStep s).store
      resolver := (fadeStep s).resolver
      fades := (fadeStep s).fades
      freeCount := (fadeStep s).freeCount } := by
  unfold fadeStep
  split
  · rfl
  · split
    · dsimp only
      rw [applyChange_eq, reported_state]
      rfl
    · rfl

@[simp] theorem fadeStep_executor : (fadeStep s).executor = s.executor := by rw [fadeStep_eq]
@[simp] theorem fadeStep_scenes : (fadeStep s).scenes = s.scenes := by rw [fadeStep_eq]
@[simp] theorem fadeStep_stream : (fadeStep s).stream = s.stream := by rw [fadeStep_eq]
@[simp] theorem fadeStep_output : (fadeStep s).output = s.output := by rw [fadeStep_eq]
@[simp] theorem fadeStep_resetState : (fadeStep s).resetState = s.resetState := by rw [fadeStep_eq]
@[simp] theorem fadeStep_tickClocks : (fadeStep s).tickClocks = s.tickClocks := by rw [fadeStep_eq]
@[simp] theorem fadeStep_pending : (fadeStep s).pending = s.pending := by rw [fadeStep_eq]

/-- An expiry of the step timer: not taken, or the timer stops, or every fade advances and the timer is set anew (R47). -/
theorem fadeStep_cases : fadeStep s = s ∨
    (anyMoving s.store.lists = false ∧ fadeStep s = { s with fades := { s.fades with timer := none } }) ∨
    ∃ k, (k = none → anyMoving (steppedLists s) = false) ∧
      fadeStep s = { applyChange (steppedLists s) (fun h => listDone h (s.store.lists.get h)) s with
        fades := { (applyChange (steppedLists s) (fun h => listDone h (s.store.lists.get h)) s).fades with timer := k } } := by
  unfold fadeStep
  split
  · exact .inl rfl
  · split
    · refine .inr (.inr ⟨_, ?_, rfl⟩)
      simp
    · next h => exact .inr (.inl ⟨by simpa using h, rfl⟩)

end fadeStep

section setPriority
variable (src : Source) (n : Fin 8) (s : State)

/-- Writing a priority changes one field of a source record (R79). -/
theorem setPriority_eq : setPriority src n s =
    { s with
      sessions := (setPriority src n s).sessions
      stream := { s.stream with record := { s.stream.record with priority := (setPriority src n s).stream.record.priority } } } := by
  cases src <;> rfl

@[simp] theorem setPriority_ports : (setPriority src n s).ports = s.ports := by rw [setPriority_eq]
@[simp] theorem setPriority_executor : (setPriority src n s).executor = s.executor := by rw [setPriority_eq]
@[simp] theorem setPriority_store : (setPriority src n s).store = s.store := by rw [setPriority_eq]
@[simp] theorem setPriority_resolver : (setPriority src n s).resolver = s.resolver := by rw [setPriority_eq]
@[simp] theorem setPriority_fades : (setPriority src n s).fades = s.fades := by rw [setPriority_eq]
@[simp] theorem setPriority_scenes : (setPriority src n s).scenes = s.scenes := by rw [setPriority_eq]
@[simp] theorem setPriority_output : (setPriority src n s).output = s.output := by rw [setPriority_eq]
@[simp] theorem setPriority_resetState : (setPriority src n s).resetState = s.resetState := by rw [setPriority_eq]
@[simp] theorem setPriority_tickClocks : (setPriority src n s).tickClocks = s.tickClocks := by rw [setPriority_eq]
@[simp] theorem setPriority_freeCount : (setPriority src n s).freeCount = s.freeCount := by rw [setPriority_eq]
@[simp] theorem setPriority_pending : (setPriority src n s).pending = s.pending := by rw [setPriority_eq]

/-- Of the stream, only the priority of the record can change. -/
theorem setPriority_stream : (setPriority src n s).stream =
    { s.stream with record := { s.stream.record with priority := (setPriority src n s).stream.record.priority } } := by
  conv_lhs => rw [setPriority_eq]

/-- Of a session, only its priority can change. -/
theorem setPriority_session (p : Port) : (setPriority src n s).sessions.get p =
    { s.sessions.get p with priority := ((setPriority src n s).sessions.get p).priority } := by
  cases src <;> cases p <;> rfl

theorem setPriority_priority (x : Source) : priorityOf (setPriority src n s) x = if x = src then n else priorityOf s x := by
  cases src <;> cases x <;> rfl

end setPriority

@[simp] theorem evaluateHeader_record (data : Byte) (noise : Bool) (x : StreamReceiver) :
    (evaluateHeader data noise x).record = x.record := by
  unfold evaluateHeader
  split <;> rfl

@[simp] theorem appendWord_record (data : Byte) (noise : Bool) (x : StreamReceiver) :
    (appendWord data noise x).record = x.record := by
  unfold appendWord
  split
  · rfl
  · split <;> rfl

@[simp] theorem framingDiscard_record (x : StreamReceiver) : (framingDiscard x).record = x.record := by
  unfold framingDiscard
  split <;> rfl

/-- A running keepalive restarts at an accepted SUBMIT (R70). -/
def keepaliveRestarted (rec : SourceRecord) : SourceRecord := if keepaliveRuns rec then restartKeepalive rec else rec

/-- A keepalive restart touches the remaining time alone (R70). -/
theorem keepaliveRestarted_eq (rec : SourceRecord) : keepaliveRestarted rec =
    { rec with keepaliveRemaining := (keepaliveRestarted rec).keepaliveRemaining } := by
  unfold keepaliveRestarted restartKeepalive
  split <;> rfl

/-- Of a port the end of a SUBMIT can change the outcome and the requests; elsewhere, a keepalive and the executor (R158). -/
theorem submitEnd_eq (p : Port) (s : State) : ∃ x e, submitEnd p s = { s with ports := x, executor := e } ∨
    submitEnd p s = updSession p keepaliveRestarted { s with ports := x, executor := e } := by
  unfold submitEnd
  dsimp only
  split
  · exact ⟨_, s.executor, .inl rfl⟩
  · split
    · exact ⟨_, s.executor, .inl rfl⟩
    · split
      · exact ⟨_, s.executor, .inl rfl⟩
      · rw [chooseNext_eq]
        exact ⟨_, _, .inr rfl⟩

theorem collectEnd_eq (p : Port) (s : State) : ∃ x e, collectEnd p s = { s with ports := x, executor := e } := by
  unfold collectEnd
  split
  · rw [chooseNext_eq]
    exact ⟨_, _, rfl⟩
  · exact ⟨s.ports, s.executor, rfl⟩

theorem collectNoticeEnd_eq (p : Port) (s : State) : ∃ x, collectNoticeEnd p s = { s with ports := x } := by
  unfold collectNoticeEnd
  split
  · exact ⟨_, rfl⟩
  · exact ⟨s.ports, rfl⟩

/-! ### Laws of the blocks -/

/-- The blocks behind the control ports, and the level resolver, are as they were. -/
structure SameBlocks (s t : State) : Prop where
  sessions : t.sessions = s.sessions
  store : t.store = s.store
  fades : t.fades = s.fades
  scenes : t.scenes = s.scenes
  stream : t.stream = s.stream
  output : t.output = s.output

/-- A law of the blocks behind the control ports that every command keeps. -/
structure BlockLaw (P : State → Prop) : Prop where
  same : ∀ {s t}, P s → SameBlocks s t → P t
  act : ∀ {s t}, Act s t → P s → P t
  keepalive : ∀ s p, P s → P (updSession p keepaliveRestarted s)
  frame : ∀ s, P s → P (frameStart s)
  reset : ∀ s, P s → P (resetBlocks s)
  resetScenes : ∀ s, P s → P { resetBlocks s with scenes := SceneStore.afterPor }

section BlockLaw
variable {P : State → Prop}

theorem BlockLaw.ports (h : BlockLaw P) {s : State} (hs : P s) (x : PerPort PortInterface) (e : Executor) :
    P { s with ports := x, executor := e } := h.same hs ⟨rfl, rfl, rfl, rfl, rfl, rfl⟩

theorem BlockLaw.complete (h : BlockLaw P) {y : Reply} (hy : P y.state) (p : Port) (r : Request) : P (complete p r y) := by
  rw [complete_eq]
  exact h.ports hy _ _

theorem BlockLaw.leave (h : BlockLaw P) {s : State} (hs : P s) (value : BitVec 16) (subject tag : Byte) :
    P (leaveReset value subject tag s) := h.frame _ (h.same hs ⟨rfl, rfl, rfl, rfl, rfl, rfl⟩)

theorem BlockLaw.effect (h : BlockLaw P) {i : Instr} {s t : State} (he : Effect i s t) (hs : P s) : P t := by
  have hdeselected : ∀ p, P (updLink p deselect s) := fun p => h.ports hs _ _
  cases he with
  | opened p => exact h.ports hs _ _
  | clocked p sdi => exact h.ports hs _ _
  | deselected p => exact hdeselected p
  | submitted p =>
    obtain ⟨x, e, heq | heq⟩ := submitEnd_eq p (updLink p deselect s)
    · rw [heq]
      exact h.ports (hdeselected p) _ _
    · rw [heq]
      exact h.keepalive _ _ (h.ports (hdeselected p) _ _)
  | collected p =>
    obtain ⟨x, e, heq⟩ := collectEnd_eq p (updLink p deselect s)
    rw [heq]
    exact h.ports (hdeselected p) _ _
  | noticeCollected p =>
    obtain ⟨x, heq⟩ := collectNoticeEnd_eq p (updLink p deselect s)
    rw [heq]
    exact h.ports (hdeselected p) _ _
  | changed ha => exact ha.keep (fun _ _ => h.act) hs
  | executed p r y _ ha => exact h.complete (ha.keep (fun _ _ => h.act) hs) p r
  | frame => exact h.frame s hs
  | por => exact h.same (h.resetScenes s hs) ⟨rfl, rfl, rfl, rfl, rfl, rfl⟩
  | rst => exact h.same (h.reset s hs) ⟨rfl, rfl, rfl, rfl, rfl, rfl⟩
  | rstDuringPor => exact h.same hs ⟨rfl, rfl, rfl, rfl, rfl, rfl⟩
  | resetEnded => exact h.leave hs ..
  | restarted => exact h.leave (h.reset s hs) ..

theorem BlockLaw.commands (h : BlockLaw P) : KeptByCommands P := fun _ _ _ hs hexec => h.effect (effect_of_exec hexec) hs

/-- A law of the blocks that the frame timer and the 1 ms timers keep, every step keeps. -/
theorem BlockLaw.step (h : BlockLaw P) (hframe : ∀ s, P s → P { s with output := (advanceFrame s.output).1 })
    (htimers : ∀ s, P s → P (tickTimers s)) {s t : State} (hs : P s) (hstep : step s = .next t) : P t :=
  step_keeps
    { queue := fun _ _ hu => h.same hu ⟨rfl, rfl, rfl, rfl, rfl, rfl⟩
      freeValues := fun _ _ hu => h.same hu ⟨rfl, rfl, rfl, rfl, rfl, rfl⟩
      frameTimer := hframe
      coreClocks := fun _ _ hu => h.same hu ⟨rfl, rfl, rfl, rfl, rfl, rfl⟩
      timers := htimers } h.commands hs hstep

end BlockLaw

/-! ### Fields of the source records -/

/-- A reading of a source record that the session state does not touch. -/
def IgnoresState {α : Type} (g : SourceRecord → α) : Prop := ∀ rec st, g { rec with state := st } = g rec

section fields
variable {α : Type} {g : SourceRecord → α}

theorem updSession_field {f : SourceRecord → SourceRecord} (hf : ∀ rec, g (f rec) = g rec) (p q : Port) (s : State) :
    g ((updSession p f s).sessions.get q) = g (s.sessions.get q) := by
  rw [updSession_sessions, PerPort.get_set]
  split
  · next h => rw [hf, h]
  · rfl

/-- A change of the claims leaves of the sessions everything but a DETACHING state. -/
theorem applyChange_field (hg : IgnoresState g) (lists : Vector (List Claim) 64) (done : Chan → List Addressed) (s : State)
    (p : Port) : g ((applyChange lists done s).sessions.get p) = g (s.sessions.get p) := by
  rw [applyChange_session, reportedSession]
  split
  · exact hg _ _
  · rfl

theorem fadeStep_field (hg : IgnoresState g) (s : State) (p : Port) :
    g ((fadeStep s).sessions.get p) = g (s.sessions.get p) := by
  obtain h | ⟨_, h⟩ | ⟨k, _, h⟩ := fadeStep_cases s <;> rw [h]
  exact applyChange_field hg ..

end fields

/-! ### O52: the CONFIG right (R78, R81) -/

theorem ConfigHeld.congr {s t : State} (hs : ConfigHeld s)
    (h : ∀ p, (t.sessions.get p).rights = (s.sessions.get p).rights) : ConfigHeld t := by
  obtain ⟨p, hp⟩ := hs
  exact ⟨p, by rw [h, hp]⟩

theorem configHolders_pos {t : PerPort SourceRecord} : configHolders t ≠ 0 ↔ ∃ p, (t.get p).rights.config = true := by
  constructor
  · intro h
    by_contra hnone
    have hfalse : ∀ p, (t.get p).rights.config = false := by simpa using hnone
    have h0 := hfalse .cp0
    have h1 := hfalse .cp1
    have h2 := hfalse .cp2
    simp only [PerPort.get] at h0 h1 h2
    simp [configHolders, h0, h1, h2] at h
  · rintro ⟨p, hp⟩
    cases p <;> simp only [PerPort.get] at hp <;> simp [configHolders, hp]

theorem rights_ignoresState : IgnoresState SourceRecord.rights := fun _ _ => rfl

theorem departed_rights (p : Port) (lists : Vector (List Claim) 64) (rec : SourceRecord) :
    (departed p lists rec).rights = rec.rights := rfl

theorem configHeld_act {s t : State} (ha : Act s t) (hs : ConfigHeld s) : ConfigHeld t := by
  have hchange := fun lists done u p => applyChange_field rights_ignoresState lists done u p
  cases ha with
  | granted p x hlast => exact configHolders_pos.1 hlast
  | attached p => exact hs.congr (updSession_field (fun _ => by rfl) p · s)
  | detached p o hfade =>
    refine hs.congr fun q => ?_
    rw [hchange, updSession_field (g := SourceRecord.rights) (departed_rights p _), clearHold_sessions]
  | lapsed p => exact hs.congr (updSession_field (fun _ => by rfl) p · (clearHold p s))
  | released => exact hs.congr (hchange _ _ s)
  | written => exact hs.congr (hchange _ _ s)
  | windowMoved rec => exact hs.congr (hchange _ _ (updStream (reconfigure rec) s))
  | packetAccepted ws => exact hs.congr (hchange _ _ (updStream packetCounted s))
  | resorted src n => exact hs.congr fun q => (hchange _ _ _ q).trans (by rw [setPriority_session])
  | stepped => exact hs.congr (fadeStep_field rights_ignoresState s)
  | _ => exact hs.congr fun _ => rfl

theorem configHeld_reset {s : State} (h : s.sessions = sessionsReset) : ConfigHeld s := ⟨.cp0, by rw [h]; rfl⟩

theorem configHeld_law : BlockLaw ConfigHeld where
  same hs h := hs.congr fun p => by rw [h.sessions]
  act := configHeld_act
  keepalive s p hs := hs.congr (updSession_field (fun rec => by rw [keepaliveRestarted_eq]) p · s)
  frame s hs := hs.congr fun _ => rfl
  reset _ _ := configHeld_reset rfl
  resetScenes _ _ := configHeld_reset rfl

theorem tickKeepalive_eq (rec : SourceRecord) : tickKeepalive rec =
    { rec with keepaliveRemaining := (tickKeepalive rec).keepaliveRemaining } := by
  unfold tickKeepalive
  split <;> rfl

/-- Settles O52: a GRANT that would leave no holder is refused, every reset gives CP0 the right, and nothing else touches a right. -/
theorem everyStepKeepsAConfigHolder : Obligations.EveryStepKeepsAConfigHolder := by
  intro s t hs hstep
  refine configHeld_law.step (fun _ h => h.congr fun _ => rfl) (fun u h => h.congr fun p => ?_) hs hstep
  change ((u.sessions.map tickKeepalive).get p).rights = _
  rw [PerPort.get_map, tickKeepalive_eq]

/-! ### O58: the scene pool (R101) -/

theorem ScenesSound.congr {s t : State} (hs : ScenesSound s) (h : t.scenes = s.scenes) : ScenesSound t := by
  obtain ⟨he, hz, ha⟩ := hs
  exact ⟨by rw [h]; exact he, by rw [h]; exact hz, by rw [h]; exact ha⟩

theorem sum_map_update {n : Nat} (f : Fin n → Nat) (i : Fin n) (x : Nat) :
    ((List.finRange n).map fun j => if j = i then x else f j).sum + f i = ((List.finRange n).map f).sum + x := by
  simp only [← List.ofFn_eq_map, List.sum_ofFn]
  rw [← Finset.add_sum_erase _ _ (Finset.mem_univ i), ← Finset.add_sum_erase (a := i) _ f (Finset.mem_univ i), if_pos rfl]
  have hrest : ∑ j ∈ Finset.univ.erase i, (if j = i then x else f j) = ∑ j ∈ Finset.univ.erase i, f j :=
    Finset.sum_congr rfl fun j hj => if_neg (Finset.ne_of_mem_erase hj)
  rw [hrest]
  omega

/-- Storing a scene moves the entries in use by its own and the old one's (R101). -/
theorem storeScene_used (n : Fin 32) (sc : Scene) (st : SceneStore) :
    sceneEntriesUsed (storeScene n sc st) + (sceneEntriesOf (st.scenes.get n)).length =
      sceneEntriesUsed st + (sceneEntriesOf sc).length := by
  have h := sum_map_update (fun k => (sceneEntriesOf (st.scenes.get k)).length) n (sceneEntriesOf sc).length
  rw [sceneEntriesUsed, sceneEntriesUsed, ← h]
  congr 3
  funext k
  rw [storeScene, get_set, apply_ite sceneEntriesOf, apply_ite List.length]

theorem scenesSound_storeScene {s : State} (hs : ScenesSound s) {n : Fin 32} {sc : Scene}
    (hspace : (sceneEntriesOf sc).length ≤ s.scenes.free + (sceneEntriesOf (s.scenes.scenes.get n)).length)
    (hsize : sceneDefined sc = true → 1 ≤ (sceneEntriesOf sc).length ∧ (sceneEntriesOf sc).length ≤ 64)
    (hascending : (sceneEntriesOf sc).Pairwise fun a b => a.1 < b.1) :
    ScenesSound { s with scenes := storeScene n sc s.scenes } where
  entries := by
    have hused := storeScene_used n sc s.scenes
    have hpool := hs.entries
    simp only [storeScene] at hused ⊢
    omega
  sizes k := by
    simp only [storeScene, get_set]
    split
    · exact hsize
    · exact hs.sizes k
  ascending k := by
    simp only [storeScene, get_set]
    split
    · exact hascending
    · exact hs.ascending k

theorem scenesSound_act {s t : State} (ha : Act s t) (hs : ScenesSound s) : ScenesSound t := by
  cases ha with
  | sceneStored n sc hspace hsize hascending => exact scenesSound_storeScene hs hspace hsize hascending
  | _ => exact hs.congr (by simp)

theorem scenesSound_afterPor {s : State} (h : s.scenes = SceneStore.afterPor) : ScenesSound s := by
  refine ⟨?_, fun n hn => ?_, fun n => ?_⟩
  · rw [h]
    simp [sceneEntriesUsed, SceneStore.afterPor, sceneEntriesOf, Config.sceneEntries]
  · simp [h, SceneStore.afterPor, sceneDefined] at hn
  · simp [h, SceneStore.afterPor, sceneEntriesOf]

theorem scenesSound_law : BlockLaw ScenesSound where
  same hs h := hs.congr h.scenes
  act := scenesSound_act
  keepalive _ _ hs := hs.congr rfl
  frame _ hs := hs.congr rfl
  reset _ hs := hs.congr rfl
  resetScenes _ _ := scenesSound_afterPor rfl

/-- Settles O58: entries move between the pool and one scene, after a space check that counts the old entries as free. -/
theorem everyStepKeepsTheScenePool : Obligations.EveryStepKeepsTheScenePool :=
  fun _ _ hs hstep => scenesSound_law.step (fun _ h => h.congr rfl) (fun _ h => h.congr rfl) hs hstep

end Sys2Proof.Machine
end

section
/-! PROOFS. O59: every step keeps the stream receiver sound (R120, R124, R127 to R129). -/

namespace Sys2Proof.Machine
open Sys2Proof Host

/-- What `StreamSound` says of the receiver. -/
structure ReceiverSound (x : StreamReceiver) : Prop where
  record : RecordSound x.record
  muted : x.receiver = .muted → x.staging = []
  collecting : x.receiver = .collecting → x.record.count ≠ 0 ∧ 1 ≤ x.staging.length ∧ x.staging.length ≤ 131
  lossStopped : x.record.state ≠ .live → x.lossRemaining = 0
  idle : x.idleArmed = true → x.awaitsHigh = false
  counters : CountersInRange x.counters

theorem streamSound_iff (s : State) : StreamSound s ↔ ReceiverSound s.stream :=
  ⟨fun ⟨hr, hm, hc, hl, hi, hk⟩ => ⟨hr, hm, hc, hl, hi, hk⟩, fun ⟨hr, hm, hc, hl, hi, hk⟩ => ⟨hr, hm, hc, hl, hi, hk⟩⟩

/-! ### The record -/

theorem RecordSound.withState {x : StreamRecord} (h : RecordSound x) {st : StreamState} (hoff : st = .off ↔ x.count = 0) :
    RecordSound { x with state := st } :=
  ⟨hoff, h.id, h.first, h.window, h.base, h.slots, h.divisor, h.timeout⟩

theorem RecordSound.withPriority {x : StreamRecord} (h : RecordSound x) (n : Fin 8) : RecordSound { x with priority := n } :=
  ⟨h.off, h.id, h.first, h.window, h.base, h.slots, h.divisor, h.timeout⟩

/-! ### The receiver -/

section receiver
variable {x : StreamReceiver} (h : ReceiverSound x)
include h

theorem ReceiverSound.mute : ReceiverSound (mute x) :=
  ⟨h.record, fun _ => rfl, (nomatch ·), h.lossStopped, h.idle, h.counters⟩

theorem ReceiverSound.withCounters {k : StreamCounters} (hk : CountersInRange k) : ReceiverSound { x with counters := k } :=
  ⟨h.record, h.muted, h.collecting, h.lossStopped, h.idle, hk⟩

/-- The receiver after a fall it has taken: an idle event is owed only if the next word is sought at once (R119). -/
theorem ReceiverSound.withFall {armed high : Bool} (hidle : armed = true → high = false) :
    ReceiverSound { x with idleArmed := armed, awaitsHigh := high } :=
  ⟨h.record, h.muted, h.collecting, h.lossStopped, hidle, h.counters⟩

theorem ReceiverSound.withPriority (n : Fin 8) : ReceiverSound { x with record := { x.record with priority := n } } :=
  ⟨h.record.withPriority n, h.muted, h.collecting, h.lossStopped, h.idle, h.counters⟩

/-- A header opens a packet of one word, and only under a window (R121). -/
theorem ReceiverSound.evaluateHeader (data : Byte) (noise : Bool) : ReceiverSound (evaluateHeader data noise x) := by
  unfold Machine.evaluateHeader
  split
  · next hopen =>
    obtain ⟨hwindow, _⟩ := hopen
    exact ⟨h.record, (nomatch ·), fun _ => ⟨hwindow, by simp, by simp⟩, h.lossStopped, h.idle, h.counters⟩
  · exact h.mute

theorem ReceiverSound.appendWord (data : Byte) (noise : Bool) : ReceiverSound (appendWord data noise x) := by
  unfold Machine.appendWord
  split
  · exact h
  · next hc =>
    obtain ⟨hwindow, _, _⟩ := h.collecting hc
    split
    · next hroom =>
      refine ⟨h.record, fun hm => ?_, fun _ => ⟨hwindow, ?_, ?_⟩, h.lossStopped, h.idle, h.counters⟩
      · rw [hc] at hm
        cases hm
      · simp
      · simp only [List.length_append, List.length_singleton]
        exact Nat.succ_le_of_lt hroom
    · obtain ⟨h1, h2, h3, _, h5⟩ := h.counters
      exact (h.withCounters (k := { x.counters with overlong := bump x.counters.overlong }) ⟨h1, h2, h3, bump_le _, h5⟩).mute

theorem ReceiverSound.framingDiscard : ReceiverSound (framingDiscard x) := by
  unfold Machine.framingDiscard
  split
  · exact h
  · obtain ⟨h1, _, h3⟩ := h.counters
    exact (h.withCounters (k := { x.counters with framing := bump x.counters.framing }) ⟨h1, bump_le _, h3⟩).mute

/-- A reconfiguration stops everything the old record drove (R134, R135). -/
theorem ReceiverSound.reconfigure {rec : StreamRecord} (hrec : RecordSound rec) : ReceiverSound (reconfigure rec x) := by
  unfold Machine.reconfigure
  refine ⟨hrec, fun _ => rfl, (nomatch ·), fun _ => rfl, (nomatch ·), ?_⟩
  cases x.receiver with
  | muted => exact h.counters
  | collecting =>
    obtain ⟨h1, h2, h3, h4, h5, h6, _⟩ := h.counters
    exact ⟨h1, h2, h3, h4, h5, h6, bump_le _⟩

theorem ReceiverSound.streamGone (hlive : x.record.state = .live) : ReceiverSound (streamGone x) := by
  refine ⟨h.record.withState ?_, h.muted, h.collecting, fun _ => rfl, h.idle, h.counters⟩
  rw [← h.record.off, hlive]
  decide

/-- A packet that was COLLECTING had a window, so the stream is LIVE once it is accepted (R126, R127). -/
theorem ReceiverSound.goLive_packetCounted (hc : x.receiver = .collecting) : ReceiverSound (goLive (packetCounted x)) := by
  obtain ⟨hwindow, _⟩ := h.collecting hc
  have hoff : x.record.state ≠ .off := fun ho => hwindow (h.record.off.1 ho)
  have hlive : (goLive (packetCounted x)).record.state = .live := if_neg hoff
  obtain ⟨_, h2⟩ := h.counters
  refine ⟨?_, fun _ => rfl, (nomatch ·), fun hnot => absurd hlive hnot, h.idle, bump_le _, h2⟩
  refine h.record.withState ?_
  simp [packetCounted, hoff, hwindow]

theorem ReceiverSound.tickLoss : ReceiverSound (tickLoss x) := by
  unfold Machine.tickLoss
  split
  · next hlive => exact ⟨h.record, h.muted, h.collecting, fun hnot => absurd hlive hnot, h.idle, h.counters⟩
  · exact h

end receiver

theorem receiverSound_reset : ReceiverSound StreamReceiver.reset := by
  refine ⟨⟨?_, ?_, ?_, ?_, ?_, ?_, ?_, ?_⟩, fun _ => rfl, (nomatch ·), fun _ => rfl, (nomatch ·), ?_⟩ <;> decide

/-! ### Every step -/

theorem StreamSound.congr {s t : State} (hs : StreamSound s) (h : t.stream = s.stream) : StreamSound t := by
  rw [streamSound_iff] at hs ⊢
  rwa [h]

theorem streamSound_act {s t : State} (ha : Act s t) (hs : StreamSound s) : StreamSound t := by
  rw [streamSound_iff] at hs
  cases ha with
  | resorted src n =>
    rw [streamSound_iff, applyChange_stream, setPriority_stream]
    exact hs.withPriority _
  | windowMoved rec hrecord =>
    rw [streamSound_iff, applyChange_stream]
    exact hs.reconfigure hrecord
  | countersCleared => exact (streamSound_iff _).2 (hs.withCounters (by decide))
  | streamLost hlive => exact (streamSound_iff _).2 (hs.streamGone hlive)
  | wordTaken => exact (streamSound_iff _).2 (hs.withFall fun _ => rfl)
  | idleTaken => exact (streamSound_iff _).2 (hs.withFall (nomatch ·))
  | sought => exact (streamSound_iff _).2 (hs.withFall fun _ => rfl)
  | framingFailed => exact (streamSound_iff _).2 (hs.framingDiscard.withFall (nomatch ·))
  | headerRead data noise => exact (streamSound_iff _).2 (hs.evaluateHeader data noise)
  | wordAppended data noise => exact (streamSound_iff _).2 (hs.appendWord data noise)
  | packetDropped k hcounters => exact (streamSound_iff _).2 (hs.mute.withCounters (hcounters hs.counters))
  | packetAccepted ws hcollecting =>
    rw [streamSound_iff, updStream_stream, applyChange_stream]
    exact hs.goLive_packetCounted hcollecting
  | _ => exact ((streamSound_iff s).2 hs).congr (by simp)

theorem streamSound_of_reset {s : State} (h : s.stream = StreamReceiver.reset) : StreamSound s := by
  rw [streamSound_iff, h]
  exact receiverSound_reset

theorem streamSound_law : BlockLaw StreamSound where
  same hs h := hs.congr h.stream
  act := streamSound_act
  keepalive _ _ hs := hs.congr rfl
  frame _ hs := hs.congr rfl
  reset _ _ := streamSound_of_reset rfl
  resetScenes _ _ := streamSound_of_reset rfl

/-- Settles O59: the law speaks of the receiver alone, and each operation on the receiver keeps it. -/
theorem everyStepKeepsTheReceiverSound : Obligations.EveryStepKeepsTheReceiverSound := by
  intro s t hs hstep
  refine streamSound_law.step (fun _ h => h.congr rfl) (fun u h => ?_) hs hstep
  exact (streamSound_iff _).2 ((streamSound_iff u).1 h).tickLoss

end Sys2Proof.Machine
end

section
/-! PROOFS. What the block changes do to one claim list, and the laws of the lists: the order (O54), the pool (O53) and the claim records
(O55). -/

namespace Sys2Proof.Machine
open Sys2Proof Host

/-! ### The lists after a change, channel by channel -/

section get
variable (s : State) (h : Chan)

@[simp] theorem releasedLists_get (src : Source) (o : FadeOrder) (on : Chan → Bool) : (releasedLists src o on s).get h =
    if on h then releaseClaim (s.resolver.config.get h) (priorityOf s) src o (s.store.lists.get h) else s.store.lists.get h := by
  simp [releasedLists]

theorem writtenLists_get_some {level : Chan → Option Level} {v : Level} (hv : level h = some v) (src : Source)
    (drop : Chan → Bool) (o : FadeOrder) (watch : Bool) : (writtenLists src level drop o watch s).get h =
      writeClaim (priorityOf s) src v o watch (s.store.lists.get h) := by
  simp [writtenLists, hv]

theorem writtenLists_get_none {level : Chan → Option Level} (hv : level h = none) (src : Source) (drop : Chan → Bool)
    (o : FadeOrder) (watch : Bool) : (writtenLists src level drop o watch s).get h =
      if drop h then releaseClaim (s.resolver.config.get h) (priorityOf s) src o (s.store.lists.get h)
      else s.store.lists.get h := by
  simp [writtenLists, hv]

theorem resortedLists_get_none {src : Source} (hc : findClaim src (s.store.lists.get h) = none) :
    (resortedLists src s).get h = s.store.lists.get h := by
  simp [resortedLists, hc]

theorem resortedLists_get_some {src : Source} {c : Claim} (hc : findClaim src (s.store.lists.get h) = some c) :
    (resortedLists src s).get h = placeClaim (priorityOf s) c (removeClaim src (s.store.lists.get h)) := by
  simp [resortedLists, hc]

@[simp] theorem withoutStream_get : (withoutStream s).get h = removeClaim .str (s.store.lists.get h) := by
  simp [withoutStream]

@[simp] theorem steppedLists_get : (steppedLists s).get h = stepList (s.store.lists.get h) := by
  simp [steppedLists]

theorem appliedLists_get_some {ws : List StagedWord} {v : Level} (hv : mappedLevel s.stream.record ws h = some v) :
    (appliedLists ws s).get h = applySlot (priorityOf s) v (s.store.lists.get h) := by
  simp [appliedLists, hv]

theorem appliedLists_get_none {ws : List StagedWord} (hv : mappedLevel s.stream.record ws h = none) :
    (appliedLists ws s).get h = s.store.lists.get h := by
  simp [appliedLists, hv]

end get

/-! ### Claims that only leave a list -/

/-- Every source of the second list stands in the first, in the same order: claims were changed where they stood, or left. -/
abbrev Shrinks (l m : List Claim) : Prop := (m.map (·.source)).Sublist (l.map (·.source))

section Shrinks
variable {l m : List Claim}

theorem Shrinks.onePerSource (h : Shrinks l m) (hl : OnePerSource l) : OnePerSource m := hl.sublist h

theorem Shrinks.ordered {prio : Source → Fin 8} (h : Shrinks l m) (hl : Ordered prio l) : Ordered prio m := by
  have hsources : ∀ k : List Claim, Ordered prio k ↔ (k.map (·.source)).Pairwise fun a b => prio b ≤ prio a := fun k => by
    simp [Ordered, List.pairwise_map]
  rw [hsources] at hl ⊢
  exact hl.sublist h

theorem holds_iff_mem_sources {src : Source} : holds src l = true ↔ src ∈ l.map (·.source) := by
  rw [holds_iff, List.mem_map]

theorem Shrinks.holds {src : Source} (h : Shrinks l m) (hm : holds src m = true) : holds src l = true :=
  holds_iff_mem_sources.2 (h.subset (holds_iff_mem_sources.1 hm))

theorem shrinks_removeClaim (src : Source) (l : List Claim) : Shrinks l (removeClaim src l) :=
  List.filter_sublist.map _

theorem shrinks_releaseClaim (cfg : ChannelConfig) (prio : Source → Fin 8) (src : Source) (o : FadeOrder) (l : List Claim) :
    Shrinks l (releaseClaim cfg prio src o l) := by
  by_cases ho : o.steps = 0
  · rw [releaseClaim, if_pos ho]
    exact shrinks_removeClaim src l
  · rw [Shrinks, releaseClaim_places ho]

theorem steppedClaim_source {c d : Claim} (h : steppedClaim c = some d) : d.source = c.source := by
  cases hs : c.state with
  | steady =>
    simp only [steppedClaim, stepClaim, hs, Option.some.injEq] at h
    rw [h]
  | fading f =>
    by_cases hl : f.elapsed + 1 = f.duration <;> simp only [steppedClaim, stepClaim, hs, hl, if_true, if_false, Option.some.injEq] at h <;>
      rw [← h]
  | releasing f =>
    by_cases hl : f.elapsed + 1 = f.duration <;> simp only [steppedClaim, stepClaim, hs, hl, if_true, if_false, Option.some.injEq,
      reduceCtorEq] at h
    rw [← h]

theorem shrinks_stepList (l : List Claim) : Shrinks l (stepList l) := by
  induction l with
  | nil => exact List.Sublist.slnil
  | cons c l ih =>
    cases hc : steppedClaim c with
    | none =>
      rw [stepList, List.filterMap_cons_none hc]
      exact ih.cons _
    | some d =>
      rw [stepList, List.filterMap_cons_some hc, Shrinks, List.map_cons, List.map_cons, steppedClaim_source hc]
      exact ih.cons_cons _

end Shrinks

/-! ### O54: one claim per source, in priority order (R3, R4, R21) -/

/-- What `ListsOrdered` says of one list. -/
structure ListOrdered (prio : Source → Fin 8) (l : List Claim) : Prop where
  onePerSource : OnePerSource l
  ordered : Ordered prio l

theorem listsOrdered_iff (s : State) : ListsOrdered s ↔ ∀ h, ListOrdered (priorityOf s) (s.store.lists.get h) :=
  ⟨fun hs h => ⟨(hs h).1, (hs h).2⟩, fun hs h => ⟨(hs h).onePerSource, (hs h).ordered⟩⟩

section ListOrdered
variable {prio : Source → Fin 8} {l m : List Claim} (hl : ListOrdered prio l)
include hl

theorem ListOrdered.shrink (h : Shrinks l m) : ListOrdered prio m := ⟨h.onePerSource hl.onePerSource, h.ordered hl.ordered⟩

theorem ListOrdered.writeClaim (src : Source) (v : Level) (o : FadeOrder) (watch : Bool) :
    ListOrdered prio (writeClaim prio src v o watch l) :=
  ⟨writeClaim_onePerSource hl.onePerSource .., writeClaim_ordered hl.ordered ..⟩

/-- The claims of the others are in order under priorities that differ from the old ones in one source alone. -/
theorem ListOrdered.others {prio' : Source → Fin 8} {src : Source} (hprio : ∀ x, x ≠ src → prio' x = prio x) :
    Ordered prio' (removeClaim src l) := by
  refine (removeClaim_ordered hl.ordered src).imp_of_mem fun {a b} ha hb hab => ?_
  rwa [hprio _ (mem_removeClaim.1 ha).2, hprio _ (mem_removeClaim.1 hb).2]

/-- A claim taken out and put at the front of its tier, under priorities that may differ from the old ones in its own source (R21). -/
theorem ListOrdered.replace {prio' : Source → Fin 8} {src : Source} {c : Claim} (hc : c.source = src)
    (hprio : ∀ x, x ≠ src → prio' x = prio x) : ListOrdered prio' (placeClaim prio' c (removeClaim src l)) :=
  ⟨placeClaim_onePerSource (removeClaim_onePerSource hl.onePerSource src) (by simp [hc]), placeClaim_ordered (hl.others hprio) c⟩

theorem ListOrdered.applySlot (v : Level) : ListOrdered prio (applySlot prio v l) := by
  unfold Machine.applySlot
  split
  · next hnone =>
    have h := hl.replace (prio' := prio) (src := .str) (c := streamClaim v) rfl fun _ _ => rfl
    rwa [removeClaim_of_not_holds (findClaim_eq_none.1 hnone)] at h
  · next c hc =>
    split
    · exact hl.shrink (by rw [Shrinks, map_source_mapClaim (setStreamClaim_keepsSource v)])
    · exact hl.replace ((setStreamClaim_keepsSource v c).trans (findClaim_source hc)) fun _ _ => rfl

/-- A list without the source is in order under any new priority of it. -/
theorem ListOrdered.of_not_holds {prio' : Source → Fin 8} {src : Source} (h : holds src l = false)
    (hprio : ∀ x, x ≠ src → prio' x = prio x) : ListOrdered prio' l := by
  refine ⟨hl.onePerSource, hl.ordered.imp_of_mem fun {a b} ha hb hab => ?_⟩
  rw [← removeClaim_of_not_holds h] at ha hb
  rwa [hprio _ (mem_removeClaim.1 ha).2, hprio _ (mem_removeClaim.1 hb).2]

end ListOrdered

theorem ListsOrdered.congr {s t : State} (hs : ListsOrdered s) (hl : t.store.lists = s.store.lists)
    (hp : priorityOf t = priorityOf s) : ListsOrdered t := by
  rw [listsOrdered_iff] at hs ⊢
  rwa [hl, hp]

theorem priority_ignoresState : IgnoresState SourceRecord.priority := fun _ _ => rfl

theorem updSession_priority {f : SourceRecord → SourceRecord} (hf : ∀ rec, (f rec).priority = rec.priority) (p : Port)
    (s : State) : priorityOf (updSession p f s) = priorityOf s :=
  priorityOf_congr (updSession_field hf p · s) rfl

theorem departed_priority (p : Port) (lists : Vector (List Claim) 64) (rec : SourceRecord) :
    (departed p lists rec).priority = rec.priority := rfl

/-- A change of the claims that puts every list in order under the priorities as they stand. -/
theorem applyChange_listsOrdered {lists : Vector (List Claim) 64} {u : State} (done : Chan → List Addressed)
    (h : ∀ c, ListOrdered (priorityOf u) (lists.get c)) : ListsOrdered (applyChange lists done u) := by
  rw [listsOrdered_iff, applyChange_store, storeWith_lists, applyChange_priority]
  exact h

/-- The session and the hold of a source that leaves, before its claims are released (R67). -/
theorem departed_clearHold_priority (p : Port) (lists : Vector (List Claim) 64) (s : State) :
    priorityOf (updSession p (departed p lists) (clearHold p s)) = priorityOf s :=
  updSession_priority (departed_priority p lists) p (clearHold p s)

theorem listsOrdered_act {s t : State} (ha : Act s t) (hs : ListsOrdered s) : ListsOrdered t := by
  have hs' := (listsOrdered_iff s).1 hs
  have hreleased : ∀ src o on h, ListOrdered (priorityOf s) ((releasedLists src o on s).get h) := fun src o on h => by
    rw [releasedLists_get]
    split
    · exact (hs' h).shrink (shrinks_releaseClaim ..)
    · exact hs' h
  cases ha with
  | attached p => exact hs.congr rfl (updSession_priority (fun _ => by rfl) p s)
  | granted p => exact hs.congr rfl (updSession_priority (fun _ => by rfl) p s)
  | detached p o =>
    refine applyChange_listsOrdered _ fun h => ?_
    rw [departed_clearHold_priority]
    exact hreleased _ _ _ h
  | lapsed p => exact hs.congr rfl (updSession_priority (fun _ => by rfl) p (clearHold p s))
  | released src o on => exact applyChange_listsOrdered _ (hreleased src o on)
  | written p level drop o watch =>
    refine applyChange_listsOrdered _ fun h => ?_
    cases hv : level h with
    | none =>
      rw [writtenLists_get_none s h hv]
      exact (releasedLists_get s h (sourceOf p) o drop) ▸ hreleased _ _ _ h
    | some v =>
      rw [writtenLists_get_some s h hv]
      exact (hs' h).writeClaim ..
  | resorted src n =>
    have hprio : ∀ x, x ≠ src → priorityOf (setPriority src n s) x = priorityOf s x := fun x hx => by
      rw [setPriority_priority, if_neg hx]
    refine applyChange_listsOrdered _ fun h => ?_
    have hh := hs' h
    rw [← setPriority_store src n s] at hh
    cases hc : findClaim src ((setPriority src n s).store.lists.get h) with
    | none =>
      rw [resortedLists_get_none _ h hc]
      exact hh.of_not_holds (findClaim_eq_none.1 hc) hprio
    | some c =>
      rw [resortedLists_get_some _ h hc]
      exact hh.replace (findClaim_source hc) hprio
  | windowMoved rec _ hpriority =>
    have hprio : priorityOf (updStream (reconfigure rec) s) = priorityOf s := priorityOf_congr (fun _ => rfl) hpriority
    refine (applyChange_listsOrdered (lists := withoutStream s) noneDone fun h => ?_).congr rfl rfl
    rw [hprio, withoutStream_get]
    exact (hs' h).shrink (shrinks_removeClaim ..)
  | stepped =>
    obtain h | ⟨_, h⟩ | ⟨k, _, h⟩ := fadeStep_cases s <;> rw [h]
    · exact hs
    · exact hs.congr rfl rfl
    · refine (applyChange_listsOrdered _ fun h => ?_).congr rfl rfl
      rw [steppedLists_get]
      exact (hs' h).shrink (shrinks_stepList _)
  | packetAccepted ws =>
    refine (applyChange_listsOrdered (u := updStream packetCounted s) noneDone fun h => ?_).congr rfl rfl
    change ListOrdered (priorityOf s) _
    cases hv : mappedLevel s.stream.record ws h with
    | none =>
      rw [appliedLists_get_none s h hv]
      exact hs' h
    | some v =>
      rw [appliedLists_get_some s h hv]
      exact (hs' h).applySlot v
  | framingFailed => exact hs.congr rfl (priorityOf_congr (fun _ => rfl) (by simp))
  | headerRead => exact hs.congr rfl (priorityOf_congr (fun _ => rfl) (by simp))
  | wordAppended => exact hs.congr rfl (priorityOf_congr (fun _ => rfl) (by simp))
  | _ => exact hs.congr rfl rfl

theorem reset_lists {s : State} (h : s.store = ClaimStore.reset) (c : Chan) : s.store.lists.get c = [] := by
  simp [h, ClaimStore.reset]

theorem listsOrdered_of_reset {s : State} (h : s.store = ClaimStore.reset) : ListsOrdered s := by
  intro c
  rw [reset_lists h]
  exact ⟨List.nodup_nil, List.Pairwise.nil⟩

theorem listsOrdered_law : BlockLaw ListsOrdered where
  same hs h := hs.congr (by rw [h.store]) (priorityOf_congr (fun p => by rw [h.sessions]) (by rw [h.stream]))
  act := listsOrdered_act
  keepalive s p hs := hs.congr rfl (updSession_priority (fun rec => by rw [keepaliveRestarted_eq]) p s)
  frame _ hs := hs.congr rfl rfl
  reset _ _ := listsOrdered_of_reset rfl
  resetScenes _ _ := listsOrdered_of_reset rfl

/-- The 1 ms timers touch no priority. -/
theorem tickTimers_priority (s : State) : priorityOf (tickTimers s) = priorityOf s := by
  refine priorityOf_congr (fun p => ?_) ?_
  · change ((s.sessions.map tickKeepalive).get p).priority = _
    rw [PerPort.get_map, tickKeepalive_eq]
  · change (tickLoss s.stream).record.priority = _
    unfold tickLoss
    split <;> rfl

theorem listsOrdered_step {s t : State} (hs : ListsOrdered s) (hstep : step s = .next t) : ListsOrdered t :=
  listsOrdered_law.step (fun _ h => h.congr rfl rfl) (fun u h => h.congr rfl (tickTimers_priority u)) hs hstep

/-- Settles O54: claims leave a list, change where they stand, or are placed at the front of their tier. -/
theorem everyStepKeepsTheListsOrdered : Obligations.EveryStepKeepsTheListsOrdered := fun _ _ => listsOrdered_step

end Sys2Proof.Machine
end

section
/-! PROOFS. O53: every step keeps the pool, the claim counts and the reservation (R6 to R8). A change may create claims only where it has
tested for free entries, or STR claims inside the window, whose reservation covers them. -/

namespace Sys2Proof.Machine
open Sys2Proof Host

/-! ### Whose claims stand on a channel after a change -/

section holds
variable {src x : Source} {prio : Source → Fin 8} {l : List Claim}

theorem holds_releaseClaim {cfg : ChannelConfig} {o : FadeOrder} (h : holds x (releaseClaim cfg prio src o l) = true) :
    holds x l = true := (shrinks_releaseClaim cfg prio src o l).holds h

theorem holds_applySlot {v : Level} (h : holds x (applySlot prio v l) = true) : x = .str ∨ holds x l = true := by
  by_cases hx : x = .str
  · exact .inl hx
  · right
    rwa [← holds_removeClaim_ne hx, applySlot_others, holds_removeClaim_ne hx] at h

theorem holds_resort {c : Claim} (hc : findClaim src l = some c) :
    holds x (placeClaim prio c (removeClaim src l)) = holds x l := by
  by_cases hx : x = src
  · subst hx
    rw [holds_eq_find, resort_find hc, holds_eq_find, hc]
  · rw [← holds_removeClaim_ne hx, resort_others hc, holds_removeClaim_ne hx]

end holds

theorem holds_releasedLists {src x : Source} {o : FadeOrder} {on : Chan → Bool} {s : State} {h : Chan}
    (hh : holds x ((releasedLists src o on s).get h) = true) : holds x (s.store.lists.get h) = true := by
  rw [releasedLists_get] at hh
  split at hh
  · exact holds_releaseClaim hh
  · exact hh

theorem holds_writtenLists {src x : Source} {level : Chan → Option Level} {drop : Chan → Bool} {o : FadeOrder} {watch : Bool}
    {s : State} {h : Chan} (hh : holds x ((writtenLists src level drop o watch s).get h) = true) :
    holds x (s.store.lists.get h) = true ∨ (x = src ∧ (level h).isSome = true) := by
  cases hv : level h with
  | none =>
    rw [writtenLists_get_none s h hv] at hh
    split at hh
    · exact .inl (holds_releaseClaim hh)
    · exact .inl hh
  | some v =>
    rw [writtenLists_get_some s h hv, writeClaim_holds] at hh
    by_cases hx : src = x
    · exact .inr ⟨hx.symm, rfl⟩
    · exact .inl (by simpa [hx] using hh)

theorem holds_resortedLists (src x : Source) (s : State) (h : Chan) :
    holds x ((resortedLists src s).get h) = holds x (s.store.lists.get h) := by
  cases hc : findClaim src (s.store.lists.get h) with
  | none => rw [resortedLists_get_none s h hc]
  | some c => rw [resortedLists_get_some s h hc, holds_resort hc]

theorem holds_appliedLists {ws : List StagedWord} {x : Source} {s : State} {h : Chan}
    (hh : holds x ((appliedLists ws s).get h) = true) :
    holds x (s.store.lists.get h) = true ∨ (x = .str ∧ (mappedLevel s.stream.record ws h).isSome = true) := by
  cases hv : mappedLevel s.stream.record ws h with
  | none =>
    rw [appliedLists_get_none s h hv] at hh
    exact .inl hh
  | some v =>
    rw [appliedLists_get_some s h hv] at hh
    exact (holds_applySlot hh).elim (fun hx => .inr ⟨hx, rfl⟩) .inl

/-- A slot maps into the window alone (R125). -/
theorem inRun_of_mappedLevel {rec : StreamRecord} {ws : List StagedWord} {h : Chan} {v : Level}
    (hv : mappedLevel rec ws h = some v) : inRun rec.first rec.count h = true := by
  unfold mappedLevel at hv
  split at hv
  · assumption
  · cases hv

/-! ### Counting -/

theorem countClaims_mono {l m : Vector (List Claim) 64} {src : Source}
    (h : ∀ c, holds src (m.get c) = true → holds src (l.get c) = true) : countClaims m src ≤ countClaims l src :=
  countChannels_mono h

theorem countClaims_congr {l m : Vector (List Claim) 64} {src : Source} (h : ∀ c, holds src (m.get c) = holds src (l.get c)) :
    countClaims m src = countClaims l src := countChannels_congr h

/-- The claims of CP0, CP1 and CP2 in the lists. -/
def cpCount (lists : Vector (List Claim) 64) : Nat := countClaims lists .cp0 + countClaims lists .cp1 + countClaims lists .cp2

theorem PoolSound.cpClaims_eq {s : State} (hs : PoolSound s) : cpClaims s.store.counts = cpCount s.store.lists := by
  have h0 := hs.counts .cp0
  have h1 := hs.counts .cp1
  have h2 := hs.counts .cp2
  simp only [claimCount, PerSource.get] at h0 h1 h2
  rw [cpClaims, h0, h1, h2, cpCount]

theorem cpCount_mono {l m : Vector (List Claim) 64}
    (h : ∀ c x, x ≠ .str → holds x (m.get c) = true → holds x (l.get c) = true) : cpCount m ≤ cpCount l :=
  Nat.add_le_add (Nat.add_le_add (countClaims_mono (h · .cp0 (by decide))) (countClaims_mono (h · .cp1 (by decide))))
    (countClaims_mono (h · .cp2 (by decide)))

/-- A write creates at most the claims that its space check counts (R13). -/
theorem countClaims_writtenLists (src x : Source) (level : Chan → Option Level) (drop : Chan → Bool) (o : FadeOrder)
    (watch : Bool) (s : State) : countClaims (writtenLists src level drop o watch s) x ≤
      countClaims s.store.lists x + if x = src then neededClaims src level s else 0 := by
  by_cases hx : x = src
  · subst hx
    rw [if_pos rfl, neededClaims, countClaims, countClaims, ← countChannels_or_disjoint fun h hh => by simp [hh]]
    refine countChannels_mono fun h hh => ?_
    obtain hold | ⟨_, hlevel⟩ := holds_writtenLists hh
    · simp [hold]
    · cases hh' : holds x (s.store.lists.get h) <;> simp [hlevel]
  · rw [if_neg hx, Nat.add_zero]
    exact countClaims_mono fun h hh => (holds_writtenLists hh).elim id fun hnew => absurd hnew.1 hx

theorem cpCount_writtenLists (p : Port) (level : Chan → Option Level) (drop : Chan → Bool) (o : FadeOrder) (watch : Bool)
    (s : State) : cpCount (writtenLists (sourceOf p) level drop o watch s) ≤
      cpCount s.store.lists + neededClaims (sourceOf p) level s := by
  have h := fun x => countClaims_writtenLists (sourceOf p) x level drop o watch s
  have h0 := h .cp0
  have h1 := h .cp1
  have h2 := h .cp2
  unfold cpCount
  cases p <;> simp only [sourceOf, reduceCtorEq, if_true, if_false] at h0 h1 h2 ⊢ <;> omega

/-! ### The shared change -/

theorem PoolSound.congr {s t : State} (hs : PoolSound s) (hstore : t.store = s.store)
    (hwindow : t.stream.record.first = s.stream.record.first ∧ t.stream.record.count = s.stream.record.count) :
    PoolSound t := by
  obtain ⟨hc, he, hr, hw, hf⟩ := hs
  obtain ⟨h1, h2⟩ := hwindow
  refine ⟨?_, ?_, ?_, ?_, ?_⟩ <;> simp only [claimCount, hstore, h1, h2] <;> assumption

/-- The STR claims of lists that keep to the window are covered by the reservation (R6). -/
theorem countClaims_str_le {lists : Vector (List Claim) 64} {first count : Nat} (hfits : first + count ≤ 64)
    (hwindow : ∀ h, holds .str (lists.get h) = true → inRun first count h = true) : countClaims lists .str ≤ count :=
  (countChannels_mono hwindow).trans (countChannels_inRun hfits).le

/-- A change keeps the pool if the ports' new claims find free entries and the STR claims keep to the window (R6, R7, R8). -/
theorem applyChange_poolSound {lists : Vector (List Claim) 64} {u : State} (done : Chan → List Addressed) (hu : PoolSound u)
    (hspace : cpCount lists ≤ cpCount u.store.lists + u.store.free)
    (hwindow : ∀ h, holds .str (lists.get h) = true → inRun u.stream.record.first u.stream.record.count h = true) :
    PoolSound (applyChange lists done u) := by
  have hstr := countClaims_str_le hu.fits hwindow
  have hcp := hu.cpClaims_eq
  have hentries := hu.entries
  have hreserved := hu.reserved
  have htaken := applyChange_taken lists done u (by rw [hcp]; unfold cpCount at hspace ⊢; omega) (by omega)
  obtain ⟨hcounts, hfree, hunused⟩ := htaken.pool
  refine ⟨hcounts, ?_, ?_, ?_, ?_⟩
  · omega
  · rw [applyChange_stream]
    omega
  · rw [applyChange_store, storeWith_lists, applyChange_stream]
    exact hwindow
  · rw [applyChange_stream]
    exact hu.fits

/-- A change that creates no claim. -/
theorem applyChange_poolSound_of_fewer {lists : Vector (List Claim) 64} {u : State} (done : Chan → List Addressed)
    (hu : PoolSound u) (h : ∀ c x, holds x (lists.get c) = true → holds x (u.store.lists.get c) = true) :
    PoolSound (applyChange lists done u) :=
  applyChange_poolSound done hu ((cpCount_mono fun c x _ => h c x).trans (Nat.le_add_right ..)) fun c hc => hu.window c (h c _ hc)

/-! ### Every step -/

/-- The window moves: no STR claim is left, and the reservation moves from the old count to the new (R22, R134). -/
theorem poolSound_windowMoved {s : State} (hs : PoolSound s) {rec : StreamRecord} (hrecord : RecordSound rec)
    (hspace : rec.count ≤ s.store.free + s.stream.record.count) :
    PoolSound { applyChange (withoutStream s) noneDone (updStream (reconfigure rec) s) with
      store := { (applyChange (withoutStream s) noneDone (updStream (reconfigure rec) s)).store with
        free := s.store.free + s.stream.record.count - rec.count
        reservedUnused := rec.count } } := by
  have hnone : ∀ h, holds .str ((withoutStream s).get h) = false := fun h => by simp
  have hstr : countClaims (withoutStream s) .str = 0 := countChannels_zero.2 hnone
  have hkept : ∀ x, x ≠ .str → countClaims (withoutStream s) x = countClaims s.store.lists x := fun x hx =>
    countClaims_congr fun h => by rw [withoutStream_get, holds_removeClaim_ne hx]
  have hcp : cpCount (withoutStream s) = cpCount s.store.lists := by
    rw [cpCount, hkept _ (by decide), hkept _ (by decide), hkept _ (by decide), cpCount]
  have hold := hs.cpClaims_eq
  have hentries := hs.entries
  have hreserved := hs.reserved
  refine ⟨fun src => ?_, ?_, ?_, ?_, ?_⟩
  · simp [claimCount]
  · simp only [applyChange_store, storeWith, cpClaims, PerSource.ofFn, hstr]
    unfold cpCount at hcp hold
    omega
  · simp only [applyChange_store, applyChange_stream, storeWith, PerSource.ofFn, hstr]
    simp [reconfigure]
  · intro h hh
    simp only [applyChange_store, storeWith_lists, hnone] at hh
    cases hh
  · simp only [applyChange_stream]
    exact hrecord.window

theorem poolSound_act {s t : State} (ha : Act s t) (hs : PoolSound s) : PoolSound t := by
  cases ha with
  | detached p o =>
    exact applyChange_poolSound_of_fewer _ (hs.congr rfl ⟨rfl, rfl⟩) fun _ _ => holds_releasedLists
  | released => exact applyChange_poolSound_of_fewer _ hs fun _ _ => holds_releasedLists
  | written p level drop o watch _ _ hspace =>
    refine applyChange_poolSound _ hs ((cpCount_writtenLists ..).trans (Nat.add_le_add_left hspace _)) fun h hh => ?_
    exact (holds_writtenLists hh).elim (hs.window h) fun hnew => absurd hnew.1.symm (sourceOf_ne_str p)
  | resorted src n =>
    have hu : PoolSound (setPriority src n s) := hs.congr (setPriority_store ..) (by rw [setPriority_stream]; exact ⟨rfl, rfl⟩)
    exact applyChange_poolSound_of_fewer _ hu fun h x hh => holds_resortedLists src x _ h ▸ hh
  | windowMoved rec hrecord _ _ _ hspace => exact poolSound_windowMoved hs hrecord hspace
  | stepped =>
    obtain h | ⟨_, h⟩ | ⟨k, _, h⟩ := fadeStep_cases s <;> rw [h]
    · exact hs
    · exact hs.congr rfl ⟨rfl, rfl⟩
    · refine (applyChange_poolSound_of_fewer _ hs fun h x hh => ?_).congr rfl ⟨rfl, rfl⟩
      rw [steppedLists_get] at hh
      exact (shrinks_stepList _).holds hh
  | packetAccepted ws =>
    have hu : PoolSound (updStream packetCounted s) := hs.congr rfl ⟨rfl, rfl⟩
    refine (applyChange_poolSound _ hu ((cpCount_mono fun h x hx hh => ?_).trans (Nat.le_add_right ..)) fun h hh => ?_).congr rfl
      ⟨rfl, rfl⟩
    · exact (holds_appliedLists hh).elim id fun hnew => absurd hnew.1 hx
    · obtain hold | ⟨_, hnew⟩ := holds_appliedLists hh
      · exact hs.window h hold
      · obtain ⟨v, hv⟩ := Option.isSome_iff_exists.1 hnew
        exact inRun_of_mappedLevel hv
  | framingFailed => exact hs.congr rfl (by simp)
  | headerRead => exact hs.congr rfl (by simp)
  | wordAppended => exact hs.congr rfl (by simp)
  | _ => exact hs.congr rfl ⟨rfl, rfl⟩

theorem poolSound_of_reset {s : State} (hstore : s.store = ClaimStore.reset) (hstream : s.stream = StreamReceiver.reset) :
    PoolSound s := by
  have hempty : ∀ src h, holds src (s.store.lists.get h) = false := fun src h => by rw [reset_lists hstore]; rfl
  refine ⟨fun src => ?_, ?_, ?_, fun h hh => ?_, ?_⟩
  · rw [claimCount, countClaims, countChannels_zero.2 (hempty src), hstore]
    cases src <;> rfl
  · rw [hstore]
    rfl
  · rw [hstore, hstream]
    rfl
  · rw [hempty] at hh
    cases hh
  · rw [hstream]
    decide

theorem poolSound_law : BlockLaw PoolSound where
  same hs h := hs.congr h.store (by rw [h.stream]; exact ⟨rfl, rfl⟩)
  act := poolSound_act
  keepalive _ _ hs := hs.congr rfl ⟨rfl, rfl⟩
  frame _ hs := hs.congr rfl ⟨rfl, rfl⟩
  reset _ _ := poolSound_of_reset rfl rfl
  resetScenes _ _ := poolSound_of_reset rfl rfl

theorem tickLoss_record (x : StreamReceiver) : (tickLoss x).record = x.record := by
  unfold tickLoss
  split <;> rfl

theorem poolSound_tickTimers {s : State} (hs : PoolSound s) : PoolSound (tickTimers s) :=
  hs.congr rfl (by
    change (tickLoss s.stream).record.first = _ ∧ (tickLoss s.stream).record.count = _
    rw [tickLoss_record]
    exact ⟨rfl, rfl⟩)

/-- Settles O53: each change that creates claims has tested for their entries, and the counts are taken from the new lists. -/
theorem everyStepKeepsThePool : Obligations.EveryStepKeepsThePool :=
  fun _ _ hs hstep => poolSound_law.step (fun _ h => h.congr rfl ⟨rfl, rfl⟩) (fun _ => poolSound_tickTimers) hs hstep

end Sys2Proof.Machine
end

section
/-! PROOFS. O55: every step keeps every claim record sound (R1, R2, R43, R60). A claim is made by a write, a release, a slot of a packet or
a step of its fade; each of them makes a sound one, as long as the fades in store are fades a claim can hold. -/

namespace Sys2Proof.Machine
open Sys2Proof Host

/-! ### The claims that operations make -/

theorem between_left (a b : Level) : between a b a := (BitVec.le_total a b).imp (⟨BitVec.le_refl a, ·⟩) (⟨·, BitVec.le_refl a⟩)

/-- A fade at its beginning is sound, whichever its target (R43). -/
theorem fadeSound_begin {c : Claim} {f : FadeRecord} (helapsed : f.elapsed = 0) (hpos : f.duration ≠ 0)
    (hfade : f.duration ≤ 65535) (hlevel : c.level = f.start) : FadeSound c f := by
  refine ⟨by omega, hfade, ?_, fun _ => hlevel⟩
  rw [hlevel]
  exact between_left ..

section claim
variable {o : FadeOrder} (hfade : o.steps ≤ 65535)
include hfade

theorem writtenClaim_sound {src : Source} (hsrc : src ≠ .str) (v : Level) (watch : Bool) (old : Option Claim) :
    ClaimSound (writtenClaim src v o watch old) := by
  unfold writtenClaim
  dsimp only
  split
  · exact ⟨rfl, fun h => absurd h hsrc⟩
  · next hpos => exact ⟨⟨fadeSound_begin rfl hpos hfade rfl, hsrc⟩, fun h => absurd h hsrc⟩

theorem releasedClaim_sound {c : Claim} (hc : ClaimSound c) (hstr : c.source = .str → o.notify = false) (hpos : o.steps ≠ 0)
    (snap : Level) : ClaimSound (releasedClaim snap o c) :=
  ⟨fadeSound_begin rfl hpos hfade rfl, fun h => ⟨hstr h, (hc.2 h).2⟩⟩

end claim

theorem streamClaim_sound (v : Level) : ClaimSound (streamClaim v) := ⟨rfl, fun _ => ⟨rfl, rfl⟩⟩

theorem setStreamClaim_sound {c : Claim} (hc : ClaimSound c) (v : Level) : ClaimSound (setStreamClaim v c) := ⟨rfl, hc.2⟩

/-- A step short of the last keeps the level between start and target (R50). -/
theorem FadeSound.advance {c : Claim} {f : FadeRecord} (h : FadeSound c f) (hlast : f.elapsed + 1 ≠ f.duration) :
    FadeSound { c with level := fadeLevel f.start c.target f.duration (f.elapsed + 1) } { f with elapsed := f.elapsed + 1 } := by
  obtain ⟨helapsed, hduration, _, _⟩ := h
  have hlt : f.elapsed + 1 < f.duration := by omega
  exact ⟨hlt, hduration, fadeLevel_between hlt, fun h0 => absurd h0 (Nat.succ_ne_zero _)⟩

theorem steppedClaim_sound {c d : Claim} (hc : ClaimSound c) (h : steppedClaim c = some d) : ClaimSound d := by
  obtain ⟨hstate, hstr⟩ := hc
  cases hs : c.state with
  | steady =>
    obtain rfl : c = d := by simpa [steppedClaim, stepClaim, hs] using h
    exact ⟨hstate, hstr⟩
  | fading f =>
    rw [hs] at hstate
    obtain ⟨hf, hsrc⟩ := hstate
    by_cases hl : f.elapsed + 1 = f.duration
    · rw [steppedClaim_of_completed (stepClaim_fading_last hs hl), Option.some.injEq] at h
      subst h
      exact ⟨rfl, hstr⟩
    · have hlt : f.elapsed + 1 < f.duration := by have := hf.1; omega
      rw [steppedClaim_of_kept (stepClaim_fading_early hs hlt), Option.some.injEq] at h
      subst h
      exact ⟨⟨hf.advance hl, hsrc⟩, hstr⟩
  | releasing f =>
    rw [hs] at hstate
    have hf : FadeSound c f := hstate
    by_cases hl : f.elapsed + 1 = f.duration
    · rw [steppedClaim_of_removed (stepClaim_releasing_last hs hl)] at h
      cases h
    · have hlt : f.elapsed + 1 < f.duration := by have := hf.1; omega
      rw [steppedClaim_of_kept (stepClaim_releasing_early hs hlt), Option.some.injEq] at h
      subst h
      exact ⟨hf.advance hl, hstr⟩

/-! ### The lists that operations make -/

/-- Every claim of the list is sound. -/
def ListSound (l : List Claim) : Prop := ∀ c ∈ l, ClaimSound c

section ListSound
variable {l : List Claim} (hl : ListSound l)
include hl

theorem ListSound.removeClaim (src : Source) : ListSound (removeClaim src l) := fun c hc => hl c (mem_removeClaim.1 hc).1

theorem ListSound.placeClaim (prio : Source → Fin 8) {c : Claim} (hc : ClaimSound c) : ListSound (placeClaim prio c l) := by
  intro d hd
  rcases mem_placeClaim.1 hd with rfl | hd
  · exact hc
  · exact hl d hd

theorem ListSound.mapClaim {src : Source} {f : Claim → Claim} (hf : ∀ c, ClaimSound c → c.source = src → ClaimSound (f c)) :
    ListSound (mapClaim src f l) := by
  intro d hd
  obtain ⟨c, hc, rfl⟩ := List.mem_map.1 hd
  split
  · next hsrc => exact hf c (hl c hc) hsrc
  · exact hl c hc

theorem ListSound.writeClaim (prio : Source → Fin 8) {src : Source} (hsrc : src ≠ .str) (v : Level) {o : FadeOrder}
    (hfade : o.steps ≤ 65535) (watch : Bool) : ListSound (writeClaim prio src v o watch l) :=
  (hl.removeClaim src).placeClaim prio (writtenClaim_sound hfade hsrc v watch _)

theorem ListSound.releaseClaim (cfg : ChannelConfig) (prio : Source → Fin 8) {src : Source} {o : FadeOrder}
    (hfade : o.steps ≤ 65535) (hstr : src = .str → o.notify = false) : ListSound (releaseClaim cfg prio src o l) := by
  unfold Machine.releaseClaim
  split
  · exact hl.removeClaim src
  · next hpos =>
    exact hl.mapClaim fun c hc hsrc => releasedClaim_sound hfade hc (fun h => hstr (hsrc.symm.trans h)) hpos _

theorem ListSound.applySlot (prio : Source → Fin 8) (v : Level) : ListSound (applySlot prio v l) := by
  unfold Machine.applySlot
  split
  · exact hl.placeClaim prio (streamClaim_sound v)
  · next c hc =>
    split
    · exact hl.mapClaim fun d hd _ => setStreamClaim_sound hd v
    · exact (hl.removeClaim .str).placeClaim prio (setStreamClaim_sound (hl c (findClaim_mem hc)) v)

theorem ListSound.stepList : ListSound (stepList l) := by
  intro d hd
  obtain ⟨c, hc, hcd⟩ := List.mem_filterMap.1 hd
  exact steppedClaim_sound (hl c hc) hcd

end ListSound

/-! ### Every step -/

theorem ClaimsSound.lists {s : State} (hs : ClaimsSound s) (h : Chan) : ListSound (s.store.lists.get h) := hs.claims h

/-- The stored fades are as they were, and every list is sound. -/
theorem ClaimsSound.change {s t : State} (hs : ClaimsSound s) (hlists : ∀ h, ListSound (t.store.lists.get h))
    (hsessions : ∀ p, (t.sessions.get p).lossFade = (s.sessions.get p).lossFade)
    (hstream : t.stream.record.lossFade = s.stream.record.lossFade) (hscenes : t.scenes = s.scenes) : ClaimsSound t :=
  ⟨hlists, fun p => hsessions p ▸ hs.sessionFades p, hstream ▸ hs.streamFade, hscenes ▸ hs.sceneFades⟩

theorem ClaimsSound.congr {s t : State} (hs : ClaimsSound s) (hlists : t.store.lists = s.store.lists)
    (hsessions : ∀ p, (t.sessions.get p).lossFade = (s.sessions.get p).lossFade)
    (hstream : t.stream.record.lossFade = s.stream.record.lossFade) (hscenes : t.scenes = s.scenes) : ClaimsSound t :=
  hs.change (fun h => hlists ▸ hs.lists h) hsessions hstream hscenes

theorem lossFade_ignoresState : IgnoresState SourceRecord.lossFade := fun _ _ => rfl

/-- A change of the claims touches no stored fade. -/
theorem applyChange_claimsSound {lists : Vector (List Claim) 64} {u : State} (done : Chan → List Addressed) (hu : ClaimsSound u)
    (h : ∀ c, ListSound (lists.get c)) : ClaimsSound (applyChange lists done u) :=
  hu.change (by simpa using h) (applyChange_field lossFade_ignoresState lists done u) (by rw [applyChange_stream])
    (applyChange_scenes ..)

theorem ClaimsSound.knownFade {s : State} (hs : ClaimsSound s) {n : Nat} (h : KnownFade s n) : n ≤ 65535 := by
  obtain h | ⟨p, rfl⟩ | rfl | ⟨k, rfl⟩ := h
  · exact h
  · exact hs.sessionFades p
  · exact hs.streamFade
  · exact hs.sceneFades k

theorem departed_lossFade (p : Port) (lists : Vector (List Claim) 64) (rec : SourceRecord) :
    (departed p lists rec).lossFade = rec.lossFade := rfl

theorem releasedLists_sound {s : State} (hs : ClaimsSound s) (src : Source) {o : FadeOrder} (on : Chan → Bool)
    (hfade : o.steps ≤ 65535) (hstr : src = .str → o.notify = false) (h : Chan) :
    ListSound ((releasedLists src o on s).get h) := by
  rw [releasedLists_get]
  split
  · exact (hs.lists h).releaseClaim _ _ hfade hstr
  · exact hs.lists h

theorem claimsSound_act {s t : State} (ha : Act s t) (hs : ClaimsSound s) : ClaimsSound t := by
  cases ha with
  | attached p period fade policy subs hfade =>
    refine ⟨hs.claims, fun q => ?_, hs.streamFade, hs.sceneFades⟩
    rw [updSession_sessions, PerPort.get_set]
    split
    · exact hfade
    · exact hs.sessionFades q
  | granted p => exact hs.congr rfl (updSession_field (fun _ => by rfl) p · s) rfl rfl
  | detached p o hfade =>
    have hu : ClaimsSound (updSession p (departed p (releasedLists (sourceOf p) o everywhere s)) (clearHold p s)) :=
      hs.congr rfl (updSession_field (departed_lossFade p _) p · (clearHold p s)) rfl rfl
    exact applyChange_claimsSound _ hu (releasedLists_sound hs _ _ hfade fun h => absurd h (sourceOf_ne_str p))
  | lapsed p => exact hs.congr rfl (updSession_field (fun _ => by rfl) p · (clearHold p s)) rfl rfl
  | released src o on hfade hstr => exact applyChange_claimsSound _ hs (releasedLists_sound hs src on (hs.knownFade hfade) hstr)
  | written p level drop o watch hfade =>
    have hsteps := hs.knownFade hfade
    refine applyChange_claimsSound _ hs fun h => ?_
    cases hv : level h with
    | none =>
      rw [writtenLists_get_none s h hv, ← releasedLists_get]
      exact releasedLists_sound hs _ _ hsteps (fun h => absurd h (sourceOf_ne_str p)) h
    | some v =>
      rw [writtenLists_get_some s h hv]
      exact (hs.lists h).writeClaim _ (sourceOf_ne_str p) v hsteps watch
  | resorted src n =>
    have hu : ClaimsSound (setPriority src n s) :=
      hs.congr (by rw [setPriority_store]) (fun p => by rw [setPriority_session]) (by rw [setPriority_stream])
        (setPriority_scenes ..)
    refine applyChange_claimsSound _ hu fun h => ?_
    cases hc : findClaim src ((setPriority src n s).store.lists.get h) with
    | none =>
      rw [resortedLists_get_none _ h hc]
      exact hu.lists h
    | some c =>
      rw [resortedLists_get_some _ h hc]
      exact ((hu.lists h).removeClaim src).placeClaim _ (hu.lists h c (findClaim_mem hc))
  | windowMoved rec _ _ _ hfade =>
    have hu : ClaimsSound (updStream (reconfigure rec) s) := ⟨hs.claims, hs.sessionFades, hfade, hs.sceneFades⟩
    refine (applyChange_claimsSound (lists := withoutStream s) noneDone hu fun h => ?_).congr rfl (fun _ => rfl) rfl rfl
    rw [withoutStream_get]
    exact (hs.lists h).removeClaim .str
  | sceneStored n sc _ _ _ hfade =>
    refine ⟨hs.claims, hs.sessionFades, hs.streamFade, fun k => ?_⟩
    simp only [storeScene, get_set]
    split
    · exact hfade
    · exact hs.sceneFades k
  | stepped =>
    obtain h | ⟨_, h⟩ | ⟨k, _, h⟩ := fadeStep_cases s <;> rw [h]
    · exact hs
    · exact hs.congr rfl (fun _ => rfl) rfl rfl
    · refine (applyChange_claimsSound (lists := steppedLists s) _ hs fun h => ?_).congr rfl (fun _ => rfl) rfl rfl
      rw [steppedLists_get]
      exact (hs.lists h).stepList
  | packetAccepted ws =>
    have hu : ClaimsSound (updStream packetCounted s) := hs.congr rfl (fun _ => rfl) rfl rfl
    refine (applyChange_claimsSound (lists := appliedLists ws s) noneDone hu fun h => ?_).congr rfl (fun _ => rfl) rfl rfl
    cases hv : mappedLevel s.stream.record ws h with
    | none =>
      rw [appliedLists_get_none s h hv]
      exact hs.lists h
    | some v =>
      rw [appliedLists_get_some s h hv]
      exact (hs.lists h).applySlot _ v
  | framingFailed => exact hs.congr rfl (fun _ => rfl) (by simp) rfl
  | headerRead => exact hs.congr rfl (fun _ => rfl) (by simp) rfl
  | wordAppended => exact hs.congr rfl (fun _ => rfl) (by simp) rfl
  | _ => exact hs.congr rfl (fun _ => rfl) rfl rfl

/-- After every reset there is no claim and every stored fade is 0, the scenes apart. -/
theorem claimsSound_of_reset {s : State} (hstore : s.store = ClaimStore.reset) (hsessions : s.sessions = sessionsReset)
    (hstream : s.stream = StreamReceiver.reset) (hscenes : ∀ n : Fin 32, sceneFade (s.scenes.scenes.get n) ≤ 65535) :
    ClaimsSound s := by
  refine ⟨fun h c hc => ?_, fun p => ?_, ?_, hscenes⟩
  · rw [reset_lists hstore] at hc
    cases hc
  · rw [hsessions]
    cases p <;> decide
  · rw [hstream]
    decide

theorem claimsSound_law : BlockLaw ClaimsSound where
  same hs h := hs.congr (by rw [h.store]) (fun p => by rw [h.sessions]) (by rw [h.stream]) h.scenes
  act := claimsSound_act
  keepalive s p hs := hs.congr rfl (updSession_field (fun rec => by rw [keepaliveRestarted_eq]) p · s) rfl rfl
  frame _ hs := hs.congr rfl (fun _ => rfl) rfl rfl
  reset _ hs := claimsSound_of_reset rfl rfl rfl hs.sceneFades
  resetScenes _ _ := claimsSound_of_reset rfl rfl rfl fun n => by simp [SceneStore.afterPor, sceneFade]

/-- Settles O55: each operation on a claim makes a sound claim of a sound one, and the fades it can be given are in range. -/
theorem everyStepKeepsTheClaimsSound : Obligations.EveryStepKeepsTheClaimsSound := by
  intro s t hs hstep
  refine claimsSound_law.step (fun _ h => h.congr rfl (fun _ => rfl) rfl rfl) (fun u h => ?_) hs hstep
  refine h.congr rfl (fun p => ?_) (congrArg StreamRecord.lossFade (tickLoss_record u.stream)) rfl
  change ((u.sessions.map tickKeepalive).get p).lossFade = _
  rw [PerPort.get_map, tickKeepalive_eq]

end Sys2Proof.Machine
end

section
/-! PROOFS. O56: every step keeps session states, keepalives and holds in agreement with the claims (R63, R64, R70, R149). A change either
leaves the claims of a source alone, or the source is one of which the law says nothing about claims, or it is a DETACH or a fade step. -/

namespace Sys2Proof.Machine
open Sys2Proof Host

/-! ### One port -/

/-- What `SessionsSound` says of one port: its source record, its hold, the claim lists. -/
structure SessionSound (p : Port) (x : SourceRecord) (y : Hold) (lists : Vector (List Claim) 64) : Prop where
  detached : x.state = .detached → countClaims lists (sourceOf p) = 0
  detaching : x.state = .detaching → 0 < countClaims lists (sourceOf p) ∧
    ∀ h c, findClaim (sourceOf p) (lists.get h) = some c → ∃ f, c.state = .releasing f
  hold : x.state ≠ .attached → y.flag = false
  keepalive : keepaliveRuns x = false → x.keepaliveRemaining = 0
  timer : y.timer ≠ none → y.flag = true

/-- What the law says of one port of a state. -/
abbrev PortSound (s : State) (p : Port) : Prop :=
  SessionSound p (s.sessions.get p) (s.output.holds.get p) s.store.lists

theorem sessionsSound_iff (s : State) : SessionsSound s ↔ ∀ p, PortSound s p :=
  ⟨fun ⟨h1, h2, h3, h4, h5⟩ p => ⟨h1 p, h2 p, h3 p, h4 p, h5 p⟩,
   fun h => ⟨fun p => (h p).detached, fun p => (h p).detaching, fun p => (h p).hold, fun p => (h p).keepalive,
     fun p => (h p).timer⟩⟩

/-- The change leaves every claim of the source as it was. -/
def ClaimsLeft (src : Source) (l m : Vector (List Claim) 64) : Prop := ∀ h, findClaim src (m.get h) = findClaim src (l.get h)

/-- The law says nothing of the claims of the source: it is ATTACHED or LAPSED. -/
def Present (x : SourceRecord) : Prop := x.state ≠ .detached ∧ x.state ≠ .detaching

theorem ClaimsLeft.count {src : Source} {l m : Vector (List Claim) 64} (h : ClaimsLeft src l m) :
    countClaims m src = countClaims l src :=
  countClaims_congr fun c => by rw [holds_eq_find, h, holds_eq_find]

section SessionSound
variable {p : Port} {x : SourceRecord} {y : Hold} {l : Vector (List Claim) 64} (hs : SessionSound p x y l)
include hs

theorem SessionSound.claimsLeft {m : Vector (List Claim) 64} (h : ClaimsLeft (sourceOf p) l m) : SessionSound p x y m := by
  refine ⟨fun hd => h.count ▸ hs.detached hd, fun hd => ?_, hs.hold, hs.keepalive, hs.timer⟩
  obtain ⟨hpos, hreleasing⟩ := hs.detaching hd
  exact ⟨h.count ▸ hpos, fun c d hfind => hreleasing c d (h c ▸ hfind)⟩

theorem SessionSound.present (hx : Present x) (m : Vector (List Claim) 64) : SessionSound p x y m :=
  ⟨fun hd => absurd hd hx.1, fun hd => absurd hd hx.2, hs.hold, hs.keepalive, hs.timer⟩

/-- Fields of which the law does not speak. -/
theorem SessionSound.withRecord {x' : SourceRecord} (hstate : x'.state = x.state)
    (hkeepalive : keepaliveRuns x' = false → x'.keepaliveRemaining = 0) : SessionSound p x' y l :=
  ⟨fun hd => hs.detached (hstate ▸ hd), fun hd => hs.detaching (hstate ▸ hd), fun hd => hs.hold (hstate ▸ hd), hkeepalive, hs.timer⟩

/-- A hold is set only while the source is ATTACHED (R73, R146). -/
theorem SessionSound.setHold (ha : x.state = .attached) (limit : Nat) (tag : Byte) : SessionSound p x (setHold limit tag y) l := by
  refine ⟨hs.detached, hs.detaching, fun hx => absurd ha hx, hs.keepalive, fun _ => ?_⟩
  unfold Machine.setHold
  split <;> rfl

theorem SessionSound.clearHold : SessionSound p x { y with flag := false, timer := none } l :=
  ⟨hs.detached, hs.detaching, fun _ => rfl, hs.keepalive, fun ht => absurd rfl ht⟩

end SessionSound

theorem keepaliveRuns_eq_false {x : SourceRecord} : keepaliveRuns x = false ↔ x.state ≠ .attached ∨ x.keepalivePeriod = 0 := by
  simp only [keepaliveRuns, Bool.and_eq_false_iff, decide_eq_false_iff_not, not_not]

theorem keepaliveRuns_iff {x : SourceRecord} : keepaliveRuns x = true ↔ x.state = .attached ∧ x.keepalivePeriod ≠ 0 := by
  simp [keepaliveRuns]

/-! ### The shared change -/

/-- No emptied report follows for a source whose claims the change leaves, or that is present. -/
theorem emptiedBy_eq_false {lists : Vector (List Claim) 64} {u : State} (hu : PoolSound u) {q : Port}
    (h : ClaimsLeft (sourceOf q) u.store.lists lists ∨ Present (u.sessions.get q)) : emptiedBy lists u q = false := by
  unfold emptiedBy
  rcases h with h | h
  · rw [hu.counts, h.count]
    by_cases h0 : countClaims u.store.lists (sourceOf q) = 0 <;> simp [h0]
  · simp [h.2]

theorem reportedSession_kept {lists : Vector (List Claim) 64} {u : State} (hu : PoolSound u) {q : Port}
    (h : ClaimsLeft (sourceOf q) u.store.lists lists ∨ Present (u.sessions.get q)) :
    reportedSession lists u q = u.sessions.get q := reportedSession_of_not (emptiedBy_eq_false hu h)

theorem applyChange_portSound {lists : Vector (List Claim) 64} {u : State} (done : Chan → List Addressed) (hu : PoolSound u)
    {q : Port} (hq : PortSound u q) (h : ClaimsLeft (sourceOf q) u.store.lists lists ∨ Present (u.sessions.get q)) :
    PortSound (applyChange lists done u) q := by
  rw [PortSound, applyChange_session, reportedSession_kept hu h, applyChange_output, applyChange_store, storeWith_lists]
  exact h.elim hq.claimsLeft (hq.present · lists)

/-! ### Whose claims a change leaves -/

theorem findClaim_of_others {src x : Source} {l m : List Claim} (h : removeClaim src m = removeClaim src l) (hx : x ≠ src) :
    findClaim x m = findClaim x l := by
  rw [← findClaim_removeClaim_ne hx, h, findClaim_removeClaim_ne hx]

theorem claimsLeft_releasedLists {src x : Source} (hx : x ≠ src) (o : FadeOrder) (on : Chan → Bool) (s : State) :
    ClaimsLeft x s.store.lists (releasedLists src o on s) := by
  intro h
  rw [releasedLists_get]
  split
  · exact findClaim_of_others (releaseClaim_others ..) hx
  · rfl

theorem claimsLeft_writtenLists {src x : Source} (hx : x ≠ src) (level : Chan → Option Level) (drop : Chan → Bool)
    (o : FadeOrder) (watch : Bool) (s : State) : ClaimsLeft x s.store.lists (writtenLists src level drop o watch s) := by
  intro h
  cases hv : level h with
  | none =>
    rw [writtenLists_get_none s h hv, ← releasedLists_get]
    exact claimsLeft_releasedLists hx o drop s h
  | some v =>
    rw [writtenLists_get_some s h hv]
    exact findClaim_of_others (writeClaim_others ..) hx

/-- A re-sort changes no claim, its own source's included (R21). -/
theorem claimsLeft_resortedLists (src x : Source) (s : State) : ClaimsLeft x s.store.lists (resortedLists src s) := by
  intro h
  cases hc : findClaim src (s.store.lists.get h) with
  | none => rw [resortedLists_get_none s h hc]
  | some c =>
    rw [resortedLists_get_some s h hc]
    by_cases hx : x = src
    · rw [hx, resort_find hc, hc]
    · exact findClaim_of_others (resort_others hc _) hx

theorem claimsLeft_withoutStream {x : Source} (hx : x ≠ .str) (s : State) : ClaimsLeft x s.store.lists (withoutStream s) := by
  intro h
  rw [withoutStream_get]
  exact findClaim_removeClaim_ne hx _

theorem claimsLeft_appliedLists {x : Source} (hx : x ≠ .str) (ws : List StagedWord) (s : State) :
    ClaimsLeft x s.store.lists (appliedLists ws s) := by
  intro h
  cases hv : mappedLevel s.stream.record ws h with
  | none => rw [appliedLists_get_none s h hv]
  | some v =>
    rw [appliedLists_get_some s h hv]
    exact findClaim_of_others (applySlot_others ..) hx

/-! ### DETACH and the fade step -/

/-- What a release of every claim leaves of the source's own: nothing, or a release (R17). -/
theorem releasing_of_releasedLists {src : Source} {o : FadeOrder} {s : State} {h : Chan} {c : Claim}
    (hc : findClaim src ((releasedLists src o everywhere s).get h) = some c) : ∃ f, c.state = .releasing f := by
  rw [releasedLists_get, everywhere, if_pos rfl, releaseClaim] at hc
  split at hc
  · rw [findClaim_removeClaim] at hc
    cases hc
  · rw [findClaim_mapClaim (releasedClaim_keepsSource _ o)] at hc
    obtain ⟨d, _, rfl⟩ := Option.map_eq_some_iff.1 hc
    exact ⟨_, rfl⟩

theorem departed_state (p : Port) (lists : Vector (List Claim) 64) (x : SourceRecord) : (departed p lists x).state =
    if countClaims lists (sourceOf p) = 0 then .detached else .detaching := rfl

/-- A DETACH leaves no claim, or releases alone (R67). -/
theorem sessionSound_departed (p : Port) (o : FadeOrder) (s : State) (x : SourceRecord) (y : Hold) :
    SessionSound p (departed p (releasedLists (sourceOf p) o everywhere s) x) { y with flag := false, timer := none }
      (releasedLists (sourceOf p) o everywhere s) := by
  refine ⟨fun hd => ?_, fun hd => ⟨?_, fun h c => releasing_of_releasedLists⟩, fun _ => rfl, fun _ => rfl, fun ht => absurd rfl ht⟩
  · by_contra hne
    rw [departed_state, if_neg hne] at hd
    cases hd
  · by_contra hzero
    rw [departed_state, if_pos (by omega)] at hd
    cases hd

/-- A departed source has been given its state already: the report of the change does not change it (R67, R68). -/
theorem emptiedBy_departed (p : Port) (lists : Vector (List Claim) 64) (s : State) :
    emptiedBy lists (updSession p (departed p lists) (clearHold p s)) p = false := by
  unfold emptiedBy
  rw [updSession_sessions, PerPort.get_set_self, departed_state]
  by_cases h0 : countClaims lists (sourceOf p) = 0 <;> simp [h0]

theorem reportedSession_departed (p : Port) (lists : Vector (List Claim) 64) (s : State) :
    reportedSession lists (updSession p (departed p lists) (clearHold p s)) p = departed p lists (s.sessions.get p) := by
  rw [reportedSession_of_not (emptiedBy_departed p lists s)]
  simp

/-- The claim a step leaves of a source is its own claim after the step (R3). -/
theorem findClaim_stepList {src : Source} {l : List Claim} (hl : OnePerSource l) {d : Claim}
    (h : findClaim src (stepList l) = some d) : ∃ c, findClaim src l = some c ∧ steppedClaim c = some d := by
  obtain ⟨c, hc, hcd⟩ := List.mem_filterMap.1 (findClaim_mem h)
  refine ⟨c, ?_, hcd⟩
  have hsrc : c.source = src := (steppedClaim_source hcd).symm.trans (findClaim_source h)
  exact hsrc ▸ findClaim_of_mem hl hc

theorem steppedClaim_releasing {c d : Claim} {f : FadeRecord} (hs : c.state = .releasing f) (h : steppedClaim c = some d) :
    ∃ g, d.state = .releasing g := by
  by_cases hl : f.elapsed + 1 = f.duration
  · rw [steppedClaim_of_removed (stepClaim_releasing_last hs hl)] at h
    cases h
  · simp only [steppedClaim, stepClaim, hs, hl, if_false, Option.some.injEq] at h
    rw [← h]
    exact ⟨_, rfl⟩

theorem countClaims_steppedLists (s : State) (src : Source) :
    countClaims (steppedLists s) src ≤ countClaims s.store.lists src :=
  countClaims_mono fun h hh => (shrinks_stepList _).holds (steppedLists_get s h ▸ hh)

/-- A step that empties a DETACHING source makes it DETACHED; else its claims go on RELEASING (R47, R68). -/
theorem stepped_portSound {s : State} (hpool : PoolSound s) (hlists : ListsOrdered s) (done : Chan → List Addressed) {q : Port}
    (hq : PortSound s q) : PortSound (applyChange (steppedLists s) done s) q := by
  have hcount := countClaims_steppedLists s (sourceOf q)
  rw [PortSound, applyChange_session, applyChange_output, applyChange_store, storeWith_lists]
  unfold reportedSession
  split
  · next hemptied =>
    simp only [emptiedBy, Bool.and_eq_true, decide_eq_true_eq] at hemptied
    obtain ⟨⟨_, hzero⟩, hdetaching⟩ := hemptied
    have hrest : (s.sessions.get q).state ≠ .attached := by simp [hdetaching]
    refine ⟨fun _ => hzero, (nomatch ·), fun _ => hq.hold hrest, fun _ => hq.keepalive ?_, hq.timer⟩
    exact keepaliveRuns_eq_false.2 (.inl hrest)
  · next hemptied =>
    refine ⟨fun hd => ?_, fun hd => ?_, hq.hold, hq.keepalive, hq.timer⟩
    · have := hq.detached hd
      omega
    · obtain ⟨hpos, hreleasing⟩ := hq.detaching hd
      refine ⟨?_, fun h c hc => ?_⟩
      · by_contra hzero
        have hzero : countClaims (steppedLists s) (sourceOf q) = 0 := by omega
        simp [emptiedBy, hd, hpool.counts, hpos, hzero] at hemptied
      · rw [steppedLists_get] at hc
        obtain ⟨d, hfind, hstep⟩ := findClaim_stepList (hlists h).1 hc
        obtain ⟨f, hf⟩ := hreleasing h d hfind
        exact steppedClaim_releasing hf hstep

/-! ### Every step -/

theorem SessionsSound.congr {s t : State} (hs : SessionsSound s) (hsessions : t.sessions = s.sessions)
    (hholds : t.output.holds = s.output.holds) (hlists : t.store.lists = s.store.lists) : SessionsSound t := by
  rw [sessionsSound_iff] at hs ⊢
  simpa only [PortSound, hsessions, hholds, hlists] using hs

/-- A change of one port's record and hold. -/
theorem SessionsSound.atPort {s t : State} (hs : SessionsSound s) (p : Port) (hp : PortSound t p)
    (hother : ∀ q, q ≠ p → t.sessions.get q = s.sessions.get q ∧ t.output.holds.get q = s.output.holds.get q)
    (hlists : t.store.lists = s.store.lists) : SessionsSound t := by
  rw [sessionsSound_iff] at hs ⊢
  intro q
  by_cases hq : q = p
  · exact hq ▸ hp
  · obtain ⟨hx, hy⟩ := hother q hq
    rw [PortSound, hx, hy, hlists]
    exact hs q

theorem detached_sessionsSound {s : State} (hpool : PoolSound s) (hs : SessionsSound s) (p : Port) (o : FadeOrder) :
    SessionsSound (applyChange (releasedLists (sourceOf p) o everywhere s) noneDone
      (updSession p (departed p (releasedLists (sourceOf p) o everywhere s)) (clearHold p s))) := by
  rw [sessionsSound_iff] at hs ⊢
  intro q
  by_cases hq : q = p
  · subst hq
    rw [PortSound, applyChange_session, reportedSession_departed, applyChange_output, applyChange_store, storeWith_lists]
    simpa using sessionSound_departed q o s (s.sessions.get q) (s.output.holds.get q)
  · have hu : PoolSound (updSession p (departed p (releasedLists (sourceOf p) o everywhere s)) (clearHold p s)) :=
      hpool.congr rfl ⟨rfl, rfl⟩
    refine applyChange_portSound _ hu ?_ (.inl (claimsLeft_releasedLists (fun h => hq (sourceOf_injective h)) o everywhere s))
    rw [PortSound, updSession_sessions, updSession_output, clearHold_output, PerPort.get_set_ne _ _ hq,
      PerPort.get_set_ne _ _ hq]
    exact hs q

theorem sessionsSound_act {s t : State} (ha : Act s t) (hpool : PoolSound s) (hlists : ListsOrdered s) (hs : SessionsSound s) :
    SessionsSound t := by
  have hport := (sessionsSound_iff s).1 hs
  have hset : ∀ (p : Port) (f : SourceRecord → SourceRecord) (u : State) (q : Port), q ≠ p →
      (updSession p f u).sessions.get q = u.sessions.get q := fun p f u q hq => PerPort.get_set_ne _ _ hq
  have hhold : ∀ (p : Port) (f : Hold → Hold) (u : State) (q : Port), q ≠ p →
      (updHold p f u).output.holds.get q = u.output.holds.get q := fun p f u q hq => PerPort.get_set_ne _ _ hq
  cases ha with
  | attached p period fade policy subs =>
    refine hs.atPort p ?_ (fun q hq => ⟨hset p _ s q hq, rfl⟩) rfl
    rw [PortSound, updSession_sessions, PerPort.get_set_self]
    refine ⟨(nomatch ·), (nomatch ·), fun hx => absurd rfl hx, fun hk => ?_, (hport p).timer⟩
    have hperiod : period = 0 := (keepaliveRuns_eq_false.1 hk).resolve_left fun hx => hx rfl
    simp [restartKeepalive, hperiod]
  | granted p x =>
    refine hs.atPort p ?_ (fun q hq => ⟨hset p _ s q hq, rfl⟩) rfl
    rw [PortSound, updSession_sessions, PerPort.get_set_self]
    exact (hport p).withRecord rfl (hport p).keepalive
  | detached p o => exact detached_sessionsSound hpool hs p o
  | lapsed p =>
    refine hs.atPort p ?_ (fun q hq => ⟨hset p _ (clearHold p s) q hq, PerPort.get_set_ne _ _ hq⟩) rfl
    rw [PortSound, updSession_sessions, updSession_output, clearHold_output, PerPort.get_set_self, PerPort.get_set_self]
    exact ⟨(nomatch ·), (nomatch ·), fun _ => rfl, fun _ => rfl, fun ht => absurd rfl ht⟩
  | holdSet p tag hattached =>
    refine hs.atPort p ?_ (fun q hq => ⟨rfl, hhold p _ s q hq⟩) rfl
    rw [PortSound, updHold_output, PerPort.get_set_self]
    exact (hport p).setHold hattached _ tag
  | holdCleared p =>
    refine hs.atPort p ?_ (fun q hq => ⟨rfl, hhold p _ s q hq⟩) rfl
    rw [PortSound, clearHold_output, PerPort.get_set_self]
    exact (hport p).clearHold
  | released src o on _ _ hpresent =>
    refine (sessionsSound_iff _).2 fun q => applyChange_portSound _ hpool (hport q) ?_
    by_cases hq : src = sourceOf q
    · exact .inr (hpresent q hq)
    · exact .inl (claimsLeft_releasedLists (Ne.symm hq) o on s)
  | written p level drop o watch _ hattached =>
    refine (sessionsSound_iff _).2 fun q => applyChange_portSound _ hpool (hport q) ?_
    by_cases hq : q = p
    · rw [hq]
      exact .inr (by simp [Present, hattached])
    · exact .inl (claimsLeft_writtenLists (fun h => hq (sourceOf_injective h)) level drop o watch s)
  | resorted src n =>
    have hu : PoolSound (setPriority src n s) := hpool.congr (setPriority_store ..) (by rw [setPriority_stream]; exact ⟨rfl, rfl⟩)
    refine (sessionsSound_iff _).2 fun q => applyChange_portSound _ hu ?_ (.inl (claimsLeft_resortedLists src _ _))
    rw [PortSound, setPriority_session, setPriority_output, setPriority_store]
    exact (hport q).withRecord rfl (hport q).keepalive
  | windowMoved rec =>
    refine SessionsSound.congr (s := applyChange (withoutStream s) noneDone (updStream (reconfigure rec) s)) ?_ rfl rfl rfl
    rw [sessionsSound_iff]
    intro q
    have hkept := reportedSession_kept hpool (q := q) (.inl (claimsLeft_withoutStream (sourceOf_ne_str q) s))
    rw [PortSound, applyChange_session, applyChange_output, applyChange_store, storeWith_lists]
    change SessionSound q (reportedSession (withoutStream s) s q) _ _
    rw [hkept]
    exact (hport q).claimsLeft (claimsLeft_withoutStream (sourceOf_ne_str q) s)
  | stepped =>
    obtain h | ⟨_, h⟩ | ⟨k, _, h⟩ := fadeStep_cases s <;> rw [h]
    · exact hs
    · exact hs.congr rfl rfl rfl
    · refine SessionsSound.congr (s := applyChange (steppedLists s) _ s) ?_ rfl rfl rfl
      exact (sessionsSound_iff _).2 fun q => stepped_portSound hpool hlists _ (hport q)
  | packetAccepted ws =>
    have hu : PoolSound (updStream packetCounted s) := hpool.congr rfl ⟨rfl, rfl⟩
    refine SessionsSound.congr (s := applyChange (appliedLists ws s) noneDone (updStream packetCounted s)) ?_ rfl rfl rfl
    exact (sessionsSound_iff _).2 fun q => applyChange_portSound _ hu (hport q)
      (.inl (claimsLeft_appliedLists (sourceOf_ne_str q) ws s))
  | _ => exact hs.congr rfl rfl rfl

/-- The laws that the law of the sessions rests on, with it. -/
structure SessionLaws (s : State) : Prop where
  pool : PoolSound s
  lists : ListsOrdered s
  sessions : SessionsSound s

/-- After every reset no source has a session, a hold or a claim. -/
theorem sessionsSound_of_reset {s : State} (hstore : s.store = ClaimStore.reset) (hsessions : s.sessions = sessionsReset)
    (hholds : s.output.holds = ⟨Hold.reset, Hold.reset, Hold.reset⟩) : SessionsSound s := by
  have hcount : ∀ src, countClaims s.store.lists src = 0 := fun src => countChannels_zero.2 fun h => by
    rw [reset_lists hstore]
    rfl
  rw [sessionsSound_iff]
  intro p
  rw [PortSound, hsessions, hholds]
  cases p <;> exact ⟨fun _ => hcount _, (nomatch ·), fun _ => rfl, fun _ => rfl, fun ht => absurd rfl ht⟩

theorem sessionsSound_keepalive (s : State) (p : Port) (hs : SessionsSound s) :
    SessionsSound (updSession p keepaliveRestarted s) := by
  have hport := (sessionsSound_iff s).1 hs p
  refine hs.atPort p ?_ (fun q hq => ⟨PerPort.get_set_ne _ _ hq, rfl⟩) rfl
  rw [PortSound, updSession_sessions, PerPort.get_set_self]
  refine hport.withRecord (by rw [keepaliveRestarted_eq]) fun hk => ?_
  unfold keepaliveRestarted at hk ⊢
  split at hk
  · next hruns => exact absurd (hk.symm.trans hruns) Bool.false_ne_true
  · next hstopped => rw [if_neg hstopped]; exact hport.keepalive hk

theorem sessionLaws_law : BlockLaw SessionLaws where
  same := fun ⟨hp, hl, hs⟩ h =>
    ⟨poolSound_law.same hp h, listsOrdered_law.same hl h, hs.congr h.sessions (by rw [h.output]) (by rw [h.store])⟩
  act := fun ha ⟨hp, hl, hs⟩ => ⟨poolSound_act ha hp, listsOrdered_act ha hl, sessionsSound_act ha hp hl hs⟩
  keepalive := fun s p ⟨hp, hl, hs⟩ =>
    ⟨poolSound_law.keepalive s p hp, listsOrdered_law.keepalive s p hl, sessionsSound_keepalive s p hs⟩
  frame := fun s ⟨hp, hl, hs⟩ => ⟨poolSound_law.frame s hp, listsOrdered_law.frame s hl, hs.congr rfl rfl rfl⟩
  reset := fun s ⟨hp, hl, _⟩ => ⟨poolSound_law.reset s hp, listsOrdered_law.reset s hl, sessionsSound_of_reset rfl rfl rfl⟩
  resetScenes := fun s ⟨hp, hl, _⟩ =>
    ⟨poolSound_law.resetScenes s hp, listsOrdered_law.resetScenes s hl, sessionsSound_of_reset rfl rfl rfl⟩

theorem tickKeepalive_state (x : SourceRecord) : (tickKeepalive x).state = x.state := by rw [tickKeepalive_eq]

/-- A stopped keepalive does not count, and a hold timer counts under its flag (R70, R148). -/
theorem sessionsSound_tickTimers {s : State} (hs : SessionsSound s) : SessionsSound (tickTimers s) := by
  rw [sessionsSound_iff] at hs ⊢
  intro p
  have hp := hs p
  change SessionSound p ((s.sessions.map tickKeepalive).get p) ((s.output.holds.map tickHold).get p) s.store.lists
  rw [PerPort.get_map, PerPort.get_map]
  have hx := hp.withRecord (tickKeepalive_state _) fun hk => by
    unfold tickKeepalive at hk ⊢
    split at hk
    · next hruns => exact absurd (hk.symm.trans hruns) Bool.false_ne_true
    · next hstopped => rw [if_neg hstopped]; exact hp.keepalive hk
  refine ⟨hx.detached, hx.detaching, hx.hold, hx.keepalive, fun ht => hp.timer fun hnone => ht ?_⟩
  simp [tickHold, hnone]

@[simp] theorem advanceFrame_holds (g : OutputGenerator) : (advanceFrame g).1.holds = g.holds := by
  unfold advanceFrame
  split
  · rfl
  · split <;> rfl

/-- Settles O56: the law of the sessions, kept together with the pool and the order of the lists. -/
theorem everyStepKeepsTheSessionsSound : Obligations.EveryStepKeepsTheSessionsSound := by
  intro s t hp hl hs hstep
  have ht : SessionLaws t := sessionLaws_law.step
    (fun u ⟨hp, hl, hs⟩ => ⟨hp.congr rfl ⟨rfl, rfl⟩, hl.congr rfl rfl, hs.congr rfl (advanceFrame_holds u.output) rfl⟩)
    (fun u ⟨hp, hl, hs⟩ => ⟨poolSound_tickTimers hp, hl.congr rfl (tickTimers_priority u), sessionsSound_tickTimers hs⟩)
    ⟨hp, hl, hs⟩ hstep
  exact ht.sessions

end Sys2Proof.Machine
end

section
/-! PROOFS. What falls due at one core clock: the events are taken in some order of them, and of the hold timers they only stop some, each
due one among them (R131, R145, R148, R149). -/

namespace Sys2Proof.Machine
open Sys2Proof Host

/-! ### The order (notes/assumptions/5.md) -/

/-- The free order leaves out no event and takes none twice. -/
theorem inFreeOrder_perm (k n : Nat) (es : List TimerEvent) (h : es.length ≤ k) : (inFreeOrder k n es).Perm es := by
  induction k generalizing n es with
  | zero =>
    obtain rfl : es = [] := List.length_eq_zero_iff.1 (Nat.le_zero.1 h)
    exact .refl _
  | succ k ih =>
    match es with
    | [] => exact .refl _
    | [e] => exact .refl _
    | e :: d :: ds =>
      have hi : Config.freeOrder n % (e :: d :: ds).length < (e :: d :: ds).length := Nat.mod_lt _ (by simp)
      have hrest := ih (n + 1) ((e :: d :: ds).eraseIdx (Config.freeOrder n % (e :: d :: ds).length)) (by
        rw [List.length_eraseIdx_of_lt hi]
        simp only [List.length_cons] at h ⊢
        omega)
      unfold inFreeOrder
      dsimp only
      rw [List.getElem?_eq_getElem hi, Option.toList_some, List.singleton_append]
      exact (hrest.cons _).trans (List.getElem_cons_eraseIdx_perm hi)

/-- The events that fall due at one core clock, in the order in which they are taken. -/
theorem takeDue_eq (due : List TimerEvent) (s : State) : ∃ (order : List TimerEvent) (n : Nat), order.Perm due ∧
    takeDue due s = order.foldl (fun t e => e.take t) { s with freeCount := n } :=
  ⟨_, _, inFreeOrder_perm _ _ due le_rfl, rfl⟩

/-! ### What an expiry leaves of the holds -/

section take
variable (s : State)

theorem lapseEvent_output (p : Port) : (lapseEvent p s).output = s.output ∨ (lapseEvent p s).output = (clearHold p s).output := by
  unfold lapseEvent
  dsimp only
  split
  · exact .inl rfl
  · right
    split
    · rfl
    · simp [raiseLapseState, releaseAllOf]

@[simp] theorem lossEvent_output : (lossEvent s).output = s.output := by
  unfold lossEvent
  dsimp only
  split
  · rfl
  · split <;> simp [raiseStream, releaseAllOf]

/-- The expiry of a hold timer is not taken, or clears the hold (R148). -/
theorem holdEvent_output (p : Port) : (holdEvent p s).output = s.output ∨ (holdEvent p s).output = (clearHold p s).output := by
  unfold holdEvent
  split
  · exact .inl rfl
  · exact .inr rfl

@[simp] theorem lapseEvent_resetState (p : Port) : (lapseEvent p s).resetState = s.resetState := by
  unfold lapseEvent
  dsimp only
  split
  · rfl
  · split
    · rfl
    · simp [raiseLapseState, releaseAllOf]

@[simp] theorem lossEvent_resetState : (lossEvent s).resetState = s.resetState := by
  unfold lossEvent
  dsimp only
  split
  · rfl
  · split <;> simp [raiseStream, releaseAllOf]

@[simp] theorem holdEvent_resetState (p : Port) : (holdEvent p s).resetState = s.resetState := by
  unfold holdEvent
  split <;> rfl

theorem frameEvent_holds : (frameEvent s).output.holds = s.output.holds ∧
    (frameEvent s).output.holdLimit = s.output.holdLimit ∧ (frameEvent s).resetState = s.resetState := by
  unfold frameEvent
  split <;> exact ⟨rfl, rfl, rfl⟩

/-- A hold as an expiry may leave it: as it was, or cleared. -/
def HoldKept (y z : Hold) : Prop := z = y ∨ z = { y with flag := false, timer := none }

theorem HoldKept.trans {x y z : Hold} (h : HoldKept x y) (k : HoldKept y z) : HoldKept x z := by
  rcases h with rfl | rfl
  · exact k
  · rcases k with rfl | rfl <;> exact .inr rfl

theorem holdKept_clearHold (p q : Port) : HoldKept (s.output.holds.get q) ((clearHold p s).output.holds.get q) := by
  rw [clearHold_output]
  dsimp only
  rw [PerPort.get_set]
  split
  · next hq => rw [hq]; exact .inr rfl
  · exact .inl rfl

theorem take_holdKept (e : TimerEvent) (q : Port) : HoldKept (s.output.holds.get q) ((e.take s).output.holds.get q) := by
  cases e with
  | fade => exact .inl (by simp [TimerEvent.take])
  | keepalive p =>
    obtain h | h := lapseEvent_output s p <;> rw [TimerEvent.take, h]
    · exact .inl rfl
    · exact holdKept_clearHold s p q
  | hold p =>
    obtain h | h := holdEvent_output s p <;> rw [TimerEvent.take, h]
    · exact .inl rfl
    · exact holdKept_clearHold s p q
  | loss => exact .inl (by simp [TimerEvent.take])
  | frame => exact .inl (by rw [TimerEvent.take, (frameEvent_holds s).1])

theorem take_holdLimit (e : TimerEvent) : (e.take s).output.holdLimit = s.output.holdLimit := by
  cases e with
  | fade => simp [TimerEvent.take]
  | keepalive p =>
    obtain h | h := lapseEvent_output s p
    · rw [TimerEvent.take, h]
    · rw [TimerEvent.take, h]
      rfl
  | hold p =>
    obtain h | h := holdEvent_output s p
    · rw [TimerEvent.take, h]
    · rw [TimerEvent.take, h]
      rfl
  | loss => simp [TimerEvent.take]
  | frame =>
    obtain ⟨_, hlimit, _⟩ := frameEvent_holds s
    exact hlimit

theorem take_resetState (e : TimerEvent) : (e.take s).resetState = s.resetState := by
  cases e with
  | frame =>
    obtain ⟨_, _, hreset⟩ := frameEvent_holds s
    exact hreset
  | _ => simp [TimerEvent.take]

/-- After its expiry a hold timer is stopped (R148). -/
theorem hold_take_timer (p : Port) (hr : resetLasts s = false) :
    (((TimerEvent.hold p).take s).output.holds.get p).timer = none := by
  rw [TimerEvent.take, holdEvent, hr]
  by_cases ht : (s.output.holds.get p).timer = none <;> simp [ht]

end take

/-- What the events of one core clock leave of the holds: each as it was or cleared, and cleared where its timer fell due. -/
theorem foldl_take_holds (es : List TimerEvent) {s : State} (hr : resetLasts s = false) :
    (es.foldl (fun t e => e.take t) s).output.holdLimit = s.output.holdLimit ∧
    ∀ p, HoldKept (s.output.holds.get p) ((es.foldl (fun t e => e.take t) s).output.holds.get p) ∧
      (.hold p ∈ es → ((es.foldl (fun t e => e.take t) s).output.holds.get p).timer = none) := by
  induction es generalizing s with
  | nil => exact ⟨rfl, fun p => ⟨.inl rfl, fun h => nomatch h⟩⟩
  | cons e es ih =>
    obtain ⟨hlimit, hkept⟩ := ih (s := e.take s) (by rw [resetLasts, take_resetState]; exact hr)
    refine ⟨hlimit.trans (take_holdLimit s e), fun p => ?_⟩
    obtain ⟨hp, hdue⟩ := hkept p
    refine ⟨(take_holdKept s e p).trans hp, fun hmem => ?_⟩
    rcases List.mem_cons.1 hmem with rfl | hmem
    · have ht := hold_take_timer s p hr
      obtain h | h := hp <;> rw [List.foldl_cons, h]
      exact ht
    · exact hdue hmem

end Sys2Proof.Machine
end

section
/-! PROOFS. O60: the output generator, the holds and the step timer (R45 to R47, R139, R140, R143). The hold timers reach 0 at a tick and
are stopped by the expiries of the same core clock, so their law is one of whole core clocks and not of each event. -/

namespace Sys2Proof.Machine
open Sys2Proof Host

/-! ### Frames and pulses (R139, R140, R143) -/

theorem OutputSound.congr {s t : State} (hs : OutputSound s)
    (h : t.output = { s.output with holds := t.output.holds, holdLimit := t.output.holdLimit }) : OutputSound t := by
  obtain ⟨hposition, hunit, happlied, hheld, haccumulators, hpulses⟩ := hs
  refine ⟨?_, ?_, ?_, ?_, ?_, ?_⟩ <;> rw [h] <;> assumption

theorem outputSound_act {s t : State} (ha : Act s t) (hs : OutputSound s) : OutputSound t := by
  cases ha with
  | outputConfigured prescale period limit hprescale =>
    exact ⟨hs.position, hs.unit, hs.applied, hprescale, hs.accumulators, hs.pulses⟩
  | _ => exact hs.congr (by simp)

/-- The accumulator stays in 0 to 15, and no pulse is longer than the frame (R143). -/
theorem carried_le {acc : Nat} (h : acc ≤ 15) (l : Level) : carried acc l ≤ 15 := by
  have : leftOver l < 16 := Nat.mod_lt _ (by decide)
  unfold carried
  split <;> omega

theorem pulseUnits_le (acc : Nat) (l : Level) : pulseUnits acc l ≤ 4096 := by
  have : wholeUnits l ≤ 4095 := by
    unfold wholeUnits
    have := l.isLt
    omega
  unfold pulseUnits
  split <;> omega

theorem outputSound_frameStart {s : State} (hs : OutputSound s) : OutputSound (frameStart s) := by
  refine ⟨by simp, ?_, hs.held, hs.held, fun h => ?_, fun h => ⟨?_, fun hd => ?_⟩⟩
  · have := hs.held.1
    simp only [frameStart_unitClocks, frameStart_prescaleApplied]
    omega
  · simp only [frameStart, get_ofFn]
    split
    · exact carried_le (hs.accumulators h) _
    · exact Nat.zero_le _
  · simp only [frameStart, get_ofFn]
    split
    · exact pulseUnits_le ..
    · exact Nat.zero_le _
  · simp only [frameStart, get_ofFn] at hd ⊢
    simp [hd]

theorem outputSound_of_reset {s : State} (h : s.output = OutputGenerator.reset) : OutputSound s := by
  refine ⟨?_, ?_, ?_, ?_, fun c => ?_, fun c => ⟨?_, fun _ => ?_⟩⟩ <;> rw [h] <;> simp [OutputGenerator.reset]

theorem outputSound_law : BlockLaw OutputSound where
  same hs h := hs.congr (by rw [h.output])
  act := outputSound_act
  keepalive _ _ hs := hs.congr rfl
  frame _ := outputSound_frameStart
  reset _ _ := outputSound_of_reset rfl
  resetScenes _ _ := outputSound_of_reset rfl

/-- The frame timer counts within the unit and within the frame (R140). -/
theorem outputSound_advanceFrame {s : State} (hs : OutputSound s) : OutputSound { s with output := (advanceFrame s.output).1 } := by
  have hunit := hs.applied.1
  unfold advanceFrame
  split
  · next h => exact ⟨hs.position, h, hs.applied, hs.held, hs.accumulators, hs.pulses⟩
  · split
    · next h => exact ⟨h, hunit, hs.applied, hs.held, hs.accumulators, hs.pulses⟩
    · exact ⟨Nat.zero_lt_succ _, hunit, hs.applied, hs.held, hs.accumulators, hs.pulses⟩

theorem outputSound_step {s t : State} (hs : OutputSound s) (hstep : step s = .next t) : OutputSound t :=
  outputSound_law.step (fun _ => outputSound_advanceFrame) (fun _ h => h.congr rfl) hs hstep

/-! ### The step timer (R45 to R47) -/

theorem FadeTimerSound.congr {s t : State} (hs : FadeTimerSound s) (hfades : t.fades = s.fades)
    (hlists : t.store.lists = s.store.lists) : FadeTimerSound t :=
  ⟨hfades ▸ hs.period, fun h => hlists ▸ hs.stopped (hfades ▸ h)⟩

/-- A change that leaves something moving starts a stopped timer (R46). -/
theorem applyChange_fadeTimerSound (lists : Vector (List Claim) 64) (done : Chan → List Addressed) {u : State}
    (hperiod : u.fades.period ∈ [1, 2, 4, 8]) : FadeTimerSound (applyChange lists done u) := by
  refine ⟨?_, fun h => ?_⟩
  · rw [applyChange_fades, committedFades]
    split <;> exact hperiod
  · rw [applyChange_fades, committedFades] at h
    rw [applyChange_store, storeWith_lists]
    split at h
    · cases h
    · next hc => simpa [h] using hc

theorem committedFades_period (lists : Vector (List Claim) 64) (s : State) :
    (committedFades lists s).period = s.fades.period := by
  unfold committedFades
  split <;> rfl

theorem fadeTimerSound_act {s t : State} (ha : Act s t) (hs : FadeTimerSound s) : FadeTimerSound t := by
  have hperiod := hs.period
  cases ha with
  | outputConfigured _ _ _ _ hnew => exact ⟨hnew, hs.stopped⟩
  | detached => exact applyChange_fadeTimerSound _ _ hperiod
  | released => exact applyChange_fadeTimerSound _ _ hperiod
  | written => exact applyChange_fadeTimerSound _ _ hperiod
  | resorted src n => exact applyChange_fadeTimerSound _ _ (by rwa [setPriority_fades])
  | windowMoved rec =>
    exact (applyChange_fadeTimerSound (withoutStream s) noneDone (u := updStream (reconfigure rec) s) hperiod).congr rfl rfl
  | stepped =>
    obtain h | ⟨hnone, h⟩ | ⟨k, hk, h⟩ := fadeStep_cases s <;> rw [h]
    · exact hs
    · exact ⟨hperiod, fun _ => hnone⟩
    · refine ⟨?_, fun hstopped => ?_⟩
      · simp only [applyChange_fades, committedFades_period]
        exact hperiod
      · simp only [applyChange_store, storeWith_lists]
        exact hk hstopped
  | packetAccepted ws =>
    exact (applyChange_fadeTimerSound (appliedLists ws s) noneDone (u := updStream packetCounted s) hperiod).congr rfl rfl
  | _ => exact hs.congr rfl rfl

theorem fadeTimerSound_of_reset {s : State} (hstore : s.store = ClaimStore.reset) (hfades : s.fades = FadeEngine.reset) :
    FadeTimerSound s := by
  refine ⟨by rw [hfades]; decide, fun _ => ?_⟩
  simp [anyMoving, reset_lists hstore]

theorem fadeTimerSound_law : BlockLaw FadeTimerSound where
  same hs h := hs.congr h.fades (by rw [h.store])
  act := fadeTimerSound_act
  keepalive _ _ hs := hs.congr rfl rfl
  frame _ hs := hs.congr rfl rfl
  reset _ _ := fadeTimerSound_of_reset rfl rfl
  resetScenes _ _ := fadeTimerSound_of_reset rfl rfl

theorem fadeTimerSound_tickTimers {s : State} (hs : FadeTimerSound s) : FadeTimerSound (tickTimers s) :=
  ⟨hs.period, fun h => hs.stopped (Option.map_eq_none_iff.1 h)⟩

theorem fadeTimerSound_step {s t : State} (hs : FadeTimerSound s) (hstep : step s = .next t) : FadeTimerSound t :=
  fadeTimerSound_law.step (fun _ h => h.congr rfl rfl) (fun _ => fadeTimerSound_tickTimers) hs hstep

/-! ### The holds (R139, R146, R148) -/

/-- What `HoldsSound` says of one hold. -/
structure HoldSound (y : Hold) : Prop where
  started : limitInRange y.startedLimit
  timer : ∀ k, y.timer = some k → 1 ≤ k ∧ k ≤ 5000

theorem holdsSound_iff (s : State) : HoldsSound s ↔
    limitInRange s.output.holdLimit ∧ ∀ p, HoldSound (s.output.holds.get p) :=
  ⟨fun ⟨hl, hs, ht⟩ => ⟨hl, fun p => ⟨hs p, ht p⟩⟩, fun ⟨hl, hp⟩ => ⟨hl, fun p => (hp p).started, fun p => (hp p).timer⟩⟩

theorem HoldSound.cleared {y : Hold} (h : HoldSound y) : HoldSound { y with flag := false, timer := none } :=
  ⟨h.started, (nomatch ·, ·)⟩

theorem HoldSound.setHold {y : Hold} (h : HoldSound y) {limit : Nat} (hl : limitInRange limit) (tag : Byte) :
    HoldSound (setHold limit tag y) := by
  unfold Machine.setHold
  split
  · exact ⟨h.started, (nomatch ·, ·)⟩
  · next hpos =>
    refine ⟨hl, fun k hk => ?_⟩
    obtain rfl : limit = k := Option.some.inj hk
    obtain h0 | ⟨h10, h5000⟩ := hl
    · exact absurd h0 hpos
    · omega

theorem HoldsSound.congr {s t : State} (hs : HoldsSound s) (hlimit : t.output.holdLimit = s.output.holdLimit)
    (hholds : t.output.holds = s.output.holds) : HoldsSound t := by
  rw [holdsSound_iff] at hs ⊢
  rwa [hlimit, hholds]

/-- A change of one port's hold. -/
theorem HoldsSound.atPort {s t : State} (hs : HoldsSound s) (p : Port) {y : Hold} (hy : HoldSound y)
    (hlimit : t.output.holdLimit = s.output.holdLimit) (hholds : t.output.holds = s.output.holds.set p y) : HoldsSound t := by
  rw [holdsSound_iff] at hs ⊢
  obtain ⟨hl, hp⟩ := hs
  refine ⟨hlimit ▸ hl, fun q => ?_⟩
  rw [hholds, PerPort.get_set]
  split
  · exact hy
  · exact hp q

theorem holdsSound_act {s t : State} (ha : Act s t) (hs : HoldsSound s) : HoldsSound t := by
  obtain ⟨hl, hp⟩ := (holdsSound_iff s).1 hs
  cases ha with
  | outputConfigured _ _ _ _ _ hlimit => exact ⟨hlimit, hs.started, hs.timer⟩
  | holdSet p tag => exact hs.atPort p ((hp p).setHold hl tag) rfl rfl
  | holdCleared p => exact hs.atPort p (hp p).cleared rfl rfl
  | detached p => exact hs.atPort p (hp p).cleared (by simp) (by simp)
  | lapsed p => exact hs.atPort p (hp p).cleared rfl rfl
  | _ => exact hs.congr (by simp) (by simp)

theorem holdsSound_of_reset {s : State} (h : s.output = OutputGenerator.reset) : HoldsSound s := by
  rw [holdsSound_iff, h]
  refine ⟨.inr (by decide), fun p => ?_⟩
  cases p <;> exact ⟨.inl rfl, (nomatch ·, ·)⟩

theorem holdsSound_law : BlockLaw HoldsSound where
  same hs h := hs.congr (by rw [h.output]) (by rw [h.output])
  act := holdsSound_act
  keepalive _ _ hs := hs.congr rfl rfl
  frame _ hs := hs.congr rfl rfl
  reset _ _ := holdsSound_of_reset rfl
  resetScenes _ _ := holdsSound_of_reset rfl

theorem HoldSound.kept {y z : Hold} (h : HoldSound y) (hk : HoldKept y z) : HoldSound z := by
  obtain rfl | rfl := hk
  · exact h
  · exact h.cleared

@[simp] theorem advanceFrame_holdLimit (g : OutputGenerator) : (advanceFrame g).1.holdLimit = g.holdLimit := by
  unfold advanceFrame
  split
  · rfl
  · split <;> rfl

theorem mem_dueAtTick_hold {p : Port} {s : State} : .hold p ∈ dueAtTick s ↔ holdDue (s.output.holds.get p) = true := by
  unfold dueAtTick
  split <;> split <;> simp

/-- A tick brings a hold timer to 0, or leaves it running (R148). -/
theorem HoldSound.tick {y : Hold} (h : HoldSound y) (hdue : holdDue y = false) : HoldSound (tickHold y) := by
  refine ⟨h.started, fun k hk => ?_⟩
  obtain ⟨j, hj, rfl⟩ := Option.map_eq_some_iff.1 hk
  have hrange := h.timer j hj
  have hnot : ¬ j ≤ 1 := by simpa [holdDue, hj] using hdue
  omega

/-- The events of one core clock leave the holds in range, if every hold that is not has its expiry among them. -/
theorem foldl_take_holdsSound (es : List TimerEvent) {u : State} (hr : resetLasts u = false)
    (hl : limitInRange u.output.holdLimit) (hp : ∀ p, limitInRange (u.output.holds.get p).startedLimit ∧
      (HoldSound (u.output.holds.get p) ∨ .hold p ∈ es)) : HoldsSound (es.foldl (fun t e => e.take t) u) := by
  obtain ⟨hlimit, hkept⟩ := foldl_take_holds es hr
  rw [holdsSound_iff, hlimit]
  refine ⟨hl, fun p => ?_⟩
  obtain ⟨hstarted, hsound⟩ := hp p
  obtain ⟨hk, hdue⟩ := hkept p
  rcases hsound with hsound | hmem
  · exact hsound.kept hk
  · refine ⟨?_, fun k hsome => nomatch (hdue hmem).symm.trans hsome⟩
    obtain h | h := hk <;> rw [h] <;> exact hstarted

/-- At a core clock the timers that a tick brings to 0 expire, and the others are in range still. -/
theorem coreClock_holdsSound {s : State} (hs : HoldsSound s) (hr : resetLasts s = false) : HoldsSound (coreClock s) := by
  obtain ⟨hl, hp⟩ := (holdsSound_iff s).1 hs
  unfold coreClock
  dsimp only
  split
  · obtain ⟨order, n, _, heq⟩ := takeDue_eq (if (advanceFrame s.output).2 then [TimerEvent.frame] else [])
      { s with output := (advanceFrame s.output).1, tickClocks := s.tickClocks + 1 }
    rw [heq]
    refine foldl_take_holdsSound order hr (by simpa using hl) fun p => ?_
    rw [advanceFrame_holds]
    exact ⟨(hp p).started, .inl (hp p)⟩
  · obtain ⟨order, n, hperm, heq⟩ := takeDue_eq
      (dueAtTick { s with output := (advanceFrame s.output).1 } ++ if (advanceFrame s.output).2 then [TimerEvent.frame] else [])
      (tickTimers { s with output := (advanceFrame s.output).1 })
    rw [heq]
    refine foldl_take_holdsSound order hr (by simpa [tickTimers] using hl) fun p => ?_
    have hticked : (tickTimers { s with output := (advanceFrame s.output).1 }).output.holds.get p =
        tickHold (s.output.holds.get p) := by simp [tickTimers]
    rw [hticked]
    refine ⟨(hp p).started, ?_⟩
    cases hd : holdDue (s.output.holds.get p) with
    | false => exact .inl ((hp p).tick hd)
    | true => exact .inr (hperm.mem_iff.2 (List.mem_append_left _ (mem_dueAtTick_hold.2 (by simpa using hd))))

theorem holdsSound_step {s t : State} (hs : HoldsSound s) (hstep : step s = .next t) : HoldsSound t := by
  unfold step at hstep
  split at hstep
  · refine holdsSound_law.commands _ _ _ ?_ hstep
    exact hs.congr rfl rfl
  · unfold idleStep at hstep
    split at hstep
    · exact of_next hs hstep
    · next hr =>
      have hr : resetLasts s = false := by simpa using hr
      split at hstep
      · exact of_next (coreClock_holdsSound hs hr) hstep
      · dsimp only at hstep
        split at hstep
        · refine holdsSound_law.commands _ _ _ ?_ hstep
          exact hs.congr rfl rfl
        · exact of_next (coreClock_holdsSound (s := { s with freeCount := s.freeCount + 1 }) (hs.congr rfl rfl) hr) hstep

/-- Settles O60: three laws, of the frames and pulses, of the holds and of the step timer. -/
theorem everyStepKeepsTheOutputAndTheStepTimer : Obligations.EveryStepKeepsTheOutputAndTheStepTimer :=
  fun _ _ ho hh hf hstep => ⟨outputSound_step ho hstep, holdsSound_step hh hstep, fadeTimerSound_step hf hstep⟩

end Sys2Proof.Machine
end

section
/-! PROOFS. The executor's search (O15, R167), what block changes leave of the control ports, and the law of the queues and the executor
(O51, R163 to R168, R171, R172, R183). -/

namespace Sys2Proof.Machine
open Sys2Proof Host

/-! ### O15: the search (R167) -/

theorem eligible_iff (t : State) (p : Port) : eligible t p = true ↔
    (t.ports.get p).requests ≠ [] ∧ (t.ports.get p).responses.length < 8 := by
  simp only [eligible, Bool.and_eq_true, Bool.not_eq_true', List.isEmpty_eq_false_iff]
  exact Iff.and Iff.rfl decide_eq_true_iff

theorem mem_searchOrder (last p : Port) : p ∈ searchOrder last := by
  cases last <;> cases p <;> decide

theorem choiceFrom_eligible {last q : Port} {t : State} (h : choiceFrom last t = some q) : eligible t q = true :=
  List.find?_some h

theorem choiceFrom_eq_none (last : Port) (t : State) : choiceFrom last t = none ↔ ∀ p, eligible t p = false := by
  simp [choiceFrom, List.find?_eq_none, mem_searchOrder]

/-- The place of a port in the search from `last`. -/
def searchPlace (last p : Port) : Nat := (searchOrder last).idxOf p

theorem searchPlace_le (last p : Port) : searchPlace last p ≤ 2 := by
  cases last <;> cases p <;> decide

theorem searchPlace_injective {last p q : Port} (h : searchPlace last q = searchPlace last p) : q = p := by
  revert h
  cases last <;> cases p <;> cases q <;> decide

/-- Once another port before it has been served, a port stands nearer to the front of the search. -/
theorem searchPlace_after {last p q : Port} (h : searchPlace last q ≤ searchPlace last p) (hne : q ≠ p) :
    searchPlace q p < searchPlace last p := by
  revert h hne
  cases last <;> cases p <;> cases q <;> decide

/-- The first entry that has a property stands no later than any other that has it. -/
theorem idxOf_find?_le {f : Port → Bool} {l : List Port} {p q : Port} (hfind : l.find? f = some q) (hp : f p = true) :
    l.idxOf q ≤ l.idxOf p := by
  induction l with
  | nil => cases hfind
  | cons a l ih =>
    by_cases ha : f a = true
    · rw [List.find?_cons_of_pos ha] at hfind
      rw [Option.some.inj hfind, List.idxOf_cons_self]
      exact Nat.zero_le _
    · rw [List.find?_cons_of_neg ha] at hfind
      have hap : a ≠ p := fun h => ha (h ▸ hp)
      have haq : a ≠ q := fun h => ha (h ▸ List.find?_some hfind)
      rw [List.idxOf_cons_ne _ haq, List.idxOf_cons_ne _ hap]
      exact Nat.succ_le_succ (ih hfind)

/-- The search passes no eligible port: its choice stands no later than any. -/
theorem choiceFrom_first (last : Port) {p : Port} {t : State} (h : eligible t p = true) :
    ∃ q, choiceFrom last t = some q ∧ eligible t q = true ∧ searchPlace last q ≤ searchPlace last p := by
  cases hc : choiceFrom last t with
  | none =>
    rw [(choiceFrom_eq_none last t).1 hc p] at h
    cases h
  | some q => exact ⟨q, rfl, choiceFrom_eligible hc, idxOf_find?_le hc h⟩

/-- Settles O15: with each choice that passes to another port, a port that stays eligible moves up in the search. -/
theorem theSearchPassesNoEligiblePortTwice : Obligations.TheSearchPassesNoEligiblePortTwice := by
  refine ⟨fun last p t0 t1 t2 h0 h1 h2 => ?_, fun p t => eligible_iff t p, choiceFrom_eq_none, fun last => by cases last <;> rfl⟩
  obtain ⟨q0, hc0, he0, hle0⟩ := choiceFrom_first last h0
  refine ⟨q0, hc0, he0, ?_⟩
  by_cases hq0 : q0 = p
  · exact .inl hq0
  obtain ⟨q1, hc1, he1, hle1⟩ := choiceFrom_first q0 h1
  refine .inr ⟨q1, hc1, he1, ?_⟩
  by_cases hq1 : q1 = p
  · exact .inl hq1
  obtain ⟨q2, hc2, _, hle2⟩ := choiceFrom_first q1 h2
  have hnear0 := searchPlace_after hle0 hq0
  have hnear1 := searchPlace_after hle1 hq1
  have hplace := searchPlace_le last p
  rw [hc2, searchPlace_injective (q := q2) (p := p) (last := q1) (by omega)]
  exact .inr rfl

/-! ### What block changes leave of the control ports -/

theorem OnlyNotices.refl (s : State) : OnlyNotices s s := fun _ => rfl

theorem OnlyNotices.trans {s t u : State} (h : OnlyNotices s t) (k : OnlyNotices t u) : OnlyNotices s u := fun q => by
  rw [k q, h q]

theorem OnlyNotices.of_ports {s t : State} (h : t.ports = s.ports) : OnlyNotices s t := fun q => by rw [h]

theorem placeAll_eq (ns : List Notice) (pi : PortInterface) :
    placeAll ns pi = { pi with notices := (placeAll ns pi).notices, lost := (placeAll ns pi).lost } := by
  induction ns generalizing pi with
  | nil => rfl
  | cons n ns ih =>
    have hone : placeNotice n pi = { pi with notices := (placeNotice n pi).notices, lost := (placeNotice n pi).lost } := by
      unfold placeNotice
      split <;> rfl
    rw [placeAll_cons, ih, hone]

theorem raise_onlyNotices (ns : List Addressed) (s : State) : OnlyNotices s (raise ns s) := fun q => by
  rw [raise_port, placeAll_eq]

theorem applyChange_onlyNotices (lists : Vector (List Claim) 64) (done : Chan → List Addressed) (s : State) :
    OnlyNotices s (applyChange lists done s) := fun q => by
  rw [applyChange_port, placeAll_eq]

/-- Queues, links, outcomes, executor, resets and the queue of commands after a block change: as before it, notices apart. -/
structure ControlKept (s t : State) : Prop where
  ports : OnlyNotices s t
  executor : t.executor = s.executor
  resetState : t.resetState = s.resetState
  pending : t.pending = s.pending

theorem ControlKept.refl (s : State) : ControlKept s s := ⟨.refl s, rfl, rfl, rfl⟩

theorem ControlKept.trans {s t u : State} (h : ControlKept s t) (k : ControlKept t u) : ControlKept s u :=
  ⟨h.ports.trans k.ports, k.executor.trans h.executor, k.resetState.trans h.resetState, k.pending.trans h.pending⟩

theorem applyChange_controlKept {lists : Vector (List Claim) 64} {done : Chan → List Addressed} {s u : State}
    (h : ControlKept s u) : ControlKept s (applyChange lists done u) :=
  h.trans ⟨applyChange_onlyNotices lists done u, by simp, by simp, by simp⟩

theorem fadeStep_controlKept (s : State) : ControlKept s (fadeStep s) := by
  refine ⟨?_, by simp, by simp, by simp⟩
  obtain h | ⟨_, h⟩ | ⟨k, _, h⟩ := fadeStep_cases s <;> rw [h]
  · exact .refl s
  · exact .of_ports rfl
  · exact (applyChange_onlyNotices _ _ s).trans (.of_ports rfl)

theorem Act.controlKept {s t : State} (ha : Act s t) : ControlKept s t := by
  cases ha with
  | raised ns => exact ⟨raise_onlyNotices ns s, rfl, rfl, rfl⟩
  | lostCleared p =>
    refine ⟨fun q => ?_, rfl, rfl, rfl⟩
    rw [updPort_ports, PerPort.get_set]
    split
    · next h => rw [h]
    · rfl
  | detached => exact applyChange_controlKept ⟨.of_ports rfl, rfl, rfl, rfl⟩
  | released => exact applyChange_controlKept (.refl s)
  | written => exact applyChange_controlKept (.refl s)
  | resorted src n => exact applyChange_controlKept ⟨.of_ports (by simp), by simp, by simp, by simp⟩
  | windowMoved rec =>
    have h := applyChange_controlKept (lists := withoutStream s) (done := noneDone) (s := s) (u := updStream (reconfigure rec) s)
      ⟨.of_ports rfl, rfl, rfl, rfl⟩
    exact ⟨h.ports, h.executor, h.resetState, h.pending⟩
  | stepped => exact fadeStep_controlKept s
  | packetAccepted ws =>
    have h := applyChange_controlKept (lists := appliedLists ws s) (done := noneDone) (s := s) (u := updStream packetCounted s)
      ⟨.of_ports rfl, rfl, rfl, rfl⟩
    exact ⟨h.ports, h.executor, h.resetState, h.pending⟩
  | _ => exact ⟨.of_ports rfl, rfl, rfl, rfl⟩

theorem Acts.controlKept {s t : State} (h : Acts s t) : ControlKept s t :=
  Acts.keep (P := ControlKept s) (fun _ _ ha hs => hs.trans ha.controlKept) h (.refl s)

/-- What is in execution before a block change is in execution after it (R168). -/
theorem ControlKept.executing {s t : State} (h : ControlKept s t) {p : Port} {r : Request} (he : Executing p r s) :
    Executing p r t := by
  obtain ⟨hr, hc, hq⟩ := he
  exact ⟨by rw [h.resetState, hr], by rw [h.executor, hc], by rw [h.ports p]; exact hq⟩

/-! ### Notice queues in bounds (R165) -/

/-- The bounds of the notice queues and of the lost-notice counts. -/
def NoticesBounded (s : State) : Prop := ∀ q, (s.ports.get q).notices.length ≤ 16 ∧ (s.ports.get q).lost ≤ 255

theorem NoticesBounded.congr {s t : State} (hs : NoticesBounded s) (h : t.ports = s.ports) : NoticesBounded t := by
  unfold NoticesBounded
  rwa [h]

theorem placeAll_bounded (ns : List Notice) {pi : PortInterface} (h : pi.notices.length ≤ 16 ∧ pi.lost ≤ 255) :
    (placeAll ns pi).notices.length ≤ 16 ∧ (placeAll ns pi).lost ≤ 255 := by
  obtain ⟨hn, hl⟩ := h
  rw [placeAll_notices ns pi hn, placeAll_lost ns pi hn hl]
  exact ⟨List.length_take_le .., Nat.min_le_left ..⟩

theorem applyChange_noticesBounded {lists : Vector (List Claim) 64} {done : Chan → List Addressed} {u : State}
    (hu : NoticesBounded u) : NoticesBounded (applyChange lists done u) := fun q => by
  rw [applyChange_port]
  exact placeAll_bounded _ (hu q)

theorem noticesBounded_act {s t : State} (ha : Act s t) (hs : NoticesBounded s) : NoticesBounded t := by
  cases ha with
  | raised ns => exact fun q => by rw [raise_port]; exact placeAll_bounded _ (hs q)
  | lostCleared p =>
    intro q
    rw [updPort_ports, PerPort.get_set]
    split
    · exact ⟨(hs p).1, Nat.zero_le _⟩
    · exact hs q
  | detached => exact applyChange_noticesBounded (hs.congr rfl)
  | released => exact applyChange_noticesBounded hs
  | written => exact applyChange_noticesBounded hs
  | resorted => exact applyChange_noticesBounded (hs.congr (setPriority_ports ..))
  | windowMoved rec =>
    exact (applyChange_noticesBounded (lists := withoutStream s) (u := updStream (reconfigure rec) s) (hs.congr rfl)).congr rfl
  | stepped =>
    obtain h | ⟨_, h⟩ | ⟨k, _, h⟩ := fadeStep_cases s <;> rw [h]
    · exact hs
    · exact hs.congr rfl
    · exact (applyChange_noticesBounded (lists := steppedLists s) hs).congr rfl
  | packetAccepted ws =>
    exact (applyChange_noticesBounded (lists := appliedLists ws s) (u := updStream packetCounted s) (hs.congr rfl)).congr rfl
  | _ => exact hs.congr rfl

/-! ### O51: queues and executor -/

/-- The two laws, which are kept together. -/
structure QueueLaws (s : State) : Prop where
  bounded : QueuesBounded s
  executor : ExecutorSound s

theorem QueueLaws.notices {s : State} (hs : QueueLaws s) : NoticesBounded s := fun q => by
  obtain ⟨_, _, hn, hl⟩ := hs.bounded q
  exact ⟨hn, hl⟩

/-- Requests, responses and executor are as they were, the notices in bounds, and every transaction that runs under a reset is one the
reset met. -/
theorem QueueLaws.frame {s t : State} (hs : QueueLaws s) (hexecutor : t.executor = s.executor)
    (hreset : t.resetState.lasting = s.resetState.lasting)
    (hqueues : ∀ q, (t.ports.get q).requests = (s.ports.get q).requests ∧ (t.ports.get q).responses = (s.ports.get q).responses)
    (hnotices : NoticesBounded t)
    (hlinks : s.resetState.lasting ≠ none → ∀ q, (t.ports.get q).link.selected = true → (t.ports.get q).link.voided = true) :
    QueueLaws t := by
  obtain ⟨hbounded, hcurrent, hwaits, hquiet⟩ := hs
  refine ⟨fun q => ?_, fun p hp => ?_, fun hr hc p => ?_, fun hr => ⟨?_, fun p => ⟨?_, hlinks (hreset ▸ hr) p⟩⟩⟩
  · obtain ⟨hrequests, hresponses⟩ := hqueues q
    obtain ⟨h1, h2, _⟩ := hbounded q
    obtain ⟨h3, h4⟩ := hnotices q
    exact ⟨hrequests ▸ h1, hresponses ▸ h2, h3, h4⟩
  · obtain ⟨hrequests, hresponses⟩ := hqueues p
    rw [hrequests, hresponses]
    exact hcurrent p (hexecutor ▸ hp)
  · obtain ⟨hrequests, hresponses⟩ := hqueues p
    have hold := hwaits (hreset ▸ hr) (hexecutor ▸ hc) p
    rwa [eligible, hrequests, hresponses]
  · rw [hexecutor]
    exact (hquiet (hreset ▸ hr)).1
  · rw [(hqueues p).1]
    exact ((hquiet (hreset ▸ hr)).2 p).1

/-- The links are as they were. -/
theorem QueueLaws.links {s : State} (hs : QueueLaws s) (hr : s.resetState.lasting ≠ none) (q : Port)
    (hsel : (s.ports.get q).link.selected = true) : (s.ports.get q).link.voided = true := by
  obtain ⟨_, hports⟩ := hs.executor.quiet hr
  obtain ⟨_, hlink⟩ := hports q
  exact hlink hsel

theorem queueLaws_act {s t : State} (ha : Act s t) (hs : QueueLaws s) : QueueLaws t := by
  have hk := ha.controlKept
  refine hs.frame hk.executor (by rw [hk.resetState]) (fun q => by rw [hk.ports q]; exact ⟨rfl, rfl⟩)
    (noticesBounded_act ha hs.notices) fun hr q => ?_
  rw [hk.ports q]
  exact hs.links hr q

/-- A change of one port's interface that leaves its queues of requests and responses. -/
theorem QueueLaws.atPort {s t : State} (hs : QueueLaws s) (p : Port) {pi : PortInterface}
    (hports : t.ports = s.ports.set p pi) (hexecutor : t.executor = s.executor) (hreset : t.resetState = s.resetState)
    (hrequests : pi.requests = (s.ports.get p).requests) (hresponses : pi.responses = (s.ports.get p).responses)
    (hnotices : pi.notices.length ≤ (s.ports.get p).notices.length) (hlost : pi.lost = (s.ports.get p).lost)
    (hlink : s.resetState.lasting ≠ none → pi.link.selected = true → pi.link.voided = true) : QueueLaws t := by
  refine hs.frame hexecutor (by rw [hreset]) (fun q => ?_) (fun q => ?_) fun hr q => ?_ <;>
    rw [hports, PerPort.get_set] <;> split
  · next h => exact h ▸ ⟨hrequests, hresponses⟩
  · exact ⟨rfl, rfl⟩
  · obtain ⟨hn, hl⟩ := hs.notices p
    exact ⟨hnotices.trans hn, hlost ▸ hl⟩
  · exact hs.notices q
  · exact hlink hr
  · exact hs.links hr q

/-- The executor's choice gives the executor's law, of a state that has all of it but the choice (R167). -/
theorem chooseNext_queueLaws {u : State} (hbounded : QueuesBounded u) (hr : u.resetState.lasting = none)
    (hcurrent : ∀ p, u.executor.current = some p → (u.ports.get p).requests ≠ [] ∧ (u.ports.get p).responses.length < 8) :
    QueueLaws (chooseNext u) := by
  have hnoreset : (chooseNext u).resetState.lasting ≠ none → (chooseNext u).executor.current = none ∧
      ∀ p, ((chooseNext u).ports.get p).requests = [] ∧
        (((chooseNext u).ports.get p).link.selected = true → ((chooseNext u).ports.get p).link.voided = true) :=
    fun h => absurd (chooseNext_resetState u ▸ hr) h
  have hbounded' : QueuesBounded (chooseNext u) := by
    unfold QueuesBounded
    rwa [chooseNext_ports]
  cases hc : u.executor.current with
  | some q =>
    rw [chooseNext_busy u hc] at hnoreset hbounded' ⊢
    exact ⟨hbounded', hcurrent, fun _ hnone => absurd (hc.symm.trans hnone) (by simp), hnoreset⟩
  | none =>
    have hchoice := chooseNext_choice u hr hc
    unfold NextChoice at hchoice
    cases hq : choiceFrom u.executor.lastServed (chooseNext u) with
    | none =>
      simp only [hq] at hchoice
      refine ⟨hbounded', fun p hp => ?_, fun _ _ => (choiceFrom_eq_none _ _).1 hq, hnoreset⟩
      rw [hchoice] at hp
      cases hp
    | some q =>
      simp only [hq] at hchoice
      refine ⟨hbounded', fun p hp => ?_, fun _ hnone => ?_, hnoreset⟩
      · rw [hchoice] at hp
        obtain rfl : q = p := Option.some.inj hp
        exact (eligible_iff _ _).1 (choiceFrom_eligible hq)
      · rw [hchoice] at hnone
        cases hnone

/-! ### Links and executions -/

theorem clockBit_link (pi : PortInterface) (b : Bool) : clockBit pi b = { pi with link := (clockBit pi b).link } ∧
    (clockBit pi b).link.selected = pi.link.selected ∧ (clockBit pi b).link.voided = pi.link.voided := by
  unfold clockBit
  dsimp only
  split
  · exact ⟨rfl, rfl, rfl⟩
  · unfold completeByte
    cases pi.link.transaction with
    | none => exact ⟨rfl, rfl, rfl⟩
    | some t => cases t <;> exact ⟨rfl, rfl, rfl⟩

/-- Clocking changes the link alone, and neither its select nor whether it met a reset. -/
theorem clockBits_link (sdi : List Bool) (pi : PortInterface) : clockBits sdi pi = { pi with link := (clockBits sdi pi).link } ∧
    (clockBits sdi pi).link.selected = pi.link.selected ∧ (clockBits sdi pi).link.voided = pi.link.voided := by
  induction sdi generalizing pi with
  | nil => exact ⟨rfl, rfl, rfl⟩
  | cons b sdi ih =>
    obtain ⟨hone, hsel, hvoid⟩ := clockBit_link pi b
    obtain ⟨hrest, hsel', hvoid'⟩ := ih (clockBit pi b)
    have hcons : clockBits (b :: sdi) pi = clockBits sdi (clockBit pi b) := rfl
    rw [hcons]
    refine ⟨?_, hsel'.trans hsel, hvoid'.trans hvoid⟩
    rw [hrest]
    generalize (clockBits sdi (clockBit pi b)).link = l
    rw [hone]

theorem deselected_queueLaws {s : State} (hs : QueueLaws s) (p : Port) : QueueLaws (updLink p deselect s) :=
  hs.atPort p rfl rfl rfl rfl rfl le_rfl rfl fun _ hsel => nomatch hsel

theorem latched_queueLaws {s : State} (hs : QueueLaws s) (p : Port) (o : SubmitOutcome) : QueueLaws (latchOutcome p o s) :=
  hs.atPort p rfl rfl rfl rfl rfl le_rfl rfl fun hr => hs.links hr p

/-- A transaction that met no reset runs under none (R172). -/
theorem QueueLaws.noReset {s : State} (hs : QueueLaws s) {p : Port} (hsel : (s.ports.get p).link.selected = true)
    (hvoid : (s.ports.get p).link.voided = false) : s.resetState.lasting = none := by
  by_contra hr
  rw [hs.links hr p hsel] at hvoid
  cases hvoid

theorem submitted_queueLaws {s : State} (hs : QueueLaws s) (p : Port) (hsel : (s.ports.get p).link.selected = true) :
    QueueLaws (submitEnd p (updLink p deselect s)) := by
  have hd := deselected_queueLaws hs p
  unfold submitEnd
  dsimp only
  split
  · exact latched_queueLaws hd p _
  · next hvoid =>
    have hr := hs.noReset hsel (by simpa [deselect] using hvoid)
    split
    · exact latched_queueLaws hd p _
    · next r _ =>
      split
      · exact latched_queueLaws hd p _
      · next hroom =>
        have hroom : ((updLink p deselect s).ports.get p).requests.length < 8 := not_le.1 hroom
        refine chooseNext_queueLaws (fun q => ?_) hr fun q hq => ?_
        · rw [updSession_ports, updPort_ports, PerPort.get_set]
          split
          · obtain ⟨_, h2, h3, h4⟩ := hd.bounded p
            refine ⟨?_, h2, h3, h4⟩
            rw [List.length_append]
            exact Nat.succ_le_of_lt hroom
          · exact hd.bounded q
        · obtain ⟨hne, hlt⟩ := hd.executor.current q hq
          rw [updSession_ports, updPort_ports, PerPort.get_set]
          split
          · next h => exact ⟨by simp, h ▸ hlt⟩
          · exact ⟨hne, hlt⟩

theorem collected_queueLaws {s : State} (hs : QueueLaws s) (p : Port) (hsel : (s.ports.get p).link.selected = true) :
    QueueLaws (collectEnd p (updLink p deselect s)) := by
  have hd := deselected_queueLaws hs p
  unfold collectEnd
  split
  · next hout =>
    obtain ⟨_, _, hvoid, _⟩ := (headShiftedOut_iff _).1 hout
    have hr := hs.noReset hsel (by simpa [deselect] using hvoid)
    refine chooseNext_queueLaws (fun q => ?_) hr fun q hq => ?_
    · rw [updPort_ports, PerPort.get_set]
      split
      · obtain ⟨h1, h2, h3, h4⟩ := hd.bounded p
        exact ⟨h1, by rw [List.length_tail]; omega, h3, h4⟩
      · exact hd.bounded q
    · obtain ⟨hne, hlt⟩ := hd.executor.current q hq
      rw [updPort_ports, PerPort.get_set]
      split
      · next h =>
        subst h
        exact ⟨hne, by rw [List.length_tail]; omega⟩
      · exact ⟨hne, hlt⟩
  · exact hd

theorem noticeCollected_queueLaws {s : State} (hs : QueueLaws s) (p : Port) : QueueLaws (collectNoticeEnd p (updLink p deselect s)) := by
  have hd := deselected_queueLaws hs p
  unfold collectNoticeEnd
  split
  · exact hd.atPort p rfl rfl rfl rfl rfl (by simp) rfl fun hr => hd.links hr p
  · exact hd

/-- The end of an execution makes room in one queue and takes it in the other, where there was room (R168). -/
theorem complete_queueLaws {y : Reply} (hs : QueueLaws y.state) {p : Port} {r : Request} (he : Executing p r y.state) :
    QueueLaws (complete p r y) := by
  obtain ⟨hr, hc, _⟩ := he
  obtain ⟨_, hroom⟩ := hs.executor.current p hc
  unfold complete
  refine chooseNext_queueLaws (fun q => ?_) hr fun q hq => nomatch hq
  dsimp only
  rw [updPort_ports, PerPort.get_set]
  split
  · obtain ⟨h1, _, h3, h4⟩ := hs.bounded p
    refine ⟨by rw [List.length_tail]; omega, ?_, h3, h4⟩
    rw [List.length_append]
    exact Nat.succ_le_of_lt hroom
  · exact hs.bounded q

/-! ### Resets -/

theorem resetBlocks_port (s : State) (q : Port) :
    (resetBlocks s).ports.get q = PortInterface.reset (voidLink (s.ports.get q).link) [] := by
  simp [resetBlocks]

/-- Every queue is empty, and so is the executor's hand. -/
theorem queueLaws_of_empty {t : State} (hexecutor : t.executor.current = none)
    (hports : ∀ q, (t.ports.get q).requests = [] ∧ (t.ports.get q).responses = [] ∧ (t.ports.get q).notices.length ≤ 1 ∧
      (t.ports.get q).lost = 0)
    (hlinks : t.resetState.lasting ≠ none → ∀ q, (t.ports.get q).link.selected = true → (t.ports.get q).link.voided = true) :
    QueueLaws t := by
  refine ⟨fun q => ?_, fun p hp => ?_, fun _ _ p => ?_, fun hr => ⟨hexecutor, fun p => ⟨(hports p).1, hlinks hr p⟩⟩⟩
  · obtain ⟨h1, h2, h3, h4⟩ := hports q
    rw [h1, h2, h4]
    exact ⟨by decide, by decide, by omega, by decide⟩
  · rw [hexecutor] at hp
    cases hp
  · simp [eligible, (hports p).1]

/-- A link that a reset has met: what runs on it is marked (R172). -/
theorem voidLink_marked (l : Link) (h : (voidLink l).selected = true) : (voidLink l).voided = true := by
  have hsel : l.selected = true := h
  simp [voidLink, hsel]

theorem resetBegun_queueLaws {s t : State} (hports : t.ports = (resetBlocks s).ports) (hexecutor : t.executor = Executor.reset) :
    QueueLaws t := by
  refine queueLaws_of_empty (by rw [hexecutor]; rfl) (fun q => ?_) fun _ q => ?_ <;> rw [hports, resetBlocks_port]
  · exact ⟨rfl, rfl, Nat.zero_le _, rfl⟩
  · exact voidLink_marked _

theorem leaveReset_queueLaws {s : State} (value : BitVec 16) (subject tag : Byte) (hexecutor : s.executor.current = none)
    (hports : ∀ q, (s.ports.get q).requests = [] ∧ (s.ports.get q).responses.length ≤ 8 ∧ (s.ports.get q).lost ≤ 255) :
    QueueLaws (leaveReset value subject tag s) := by
  have hport : ∀ q, (leaveReset value subject tag s).ports.get q =
      { s.ports.get q with notices := [restartedNotice value subject tag] } := fun q => by simp [leaveReset]
  refine ⟨fun q => ?_, fun p hp => ?_, fun _ _ p => ?_, fun hr => absurd rfl hr⟩
  · obtain ⟨h1, h2, h3⟩ := hports q
    rw [hport, h1]
    exact ⟨Nat.zero_le _, h2, by simp, h3⟩
  · have hp : s.executor.current = some p := hp
    rw [hexecutor] at hp
    cases hp
  · rw [eligible, hport, (hports p).1]
    rfl

/-! ### Every step -/

theorem queueLaws_effect {i : Instr} {s t : State} (he : Effect i s t) (hs : QueueLaws s) : QueueLaws t := by
  cases he with
  | opened p =>
    refine hs.atPort p rfl rfl rfl rfl rfl le_rfl rfl fun hr _ => ?_
    simp [openLink, resetLasts, Option.isSome_iff_ne_none, hr]
  | clocked p sdi =>
    obtain ⟨heq, hsel, hvoid⟩ := clockBits_link sdi (s.ports.get p)
    refine hs.atPort p (updPort_ports ..) rfl rfl ?_ ?_ ?_ ?_ fun hr h => ?_
    · rw [heq]
    · rw [heq]
    · rw [heq]
    · rw [heq]
    · rw [hvoid]
      exact hs.links hr p (hsel ▸ h)
  | deselected p => exact deselected_queueLaws hs p
  | submitted p _ hsel => exact submitted_queueLaws hs p hsel
  | collected p hsel => exact collected_queueLaws hs p hsel
  | noticeCollected p => exact noticeCollected_queueLaws hs p
  | changed ha => exact ha.keep (fun _ _ => queueLaws_act) hs
  | executed p r y hex ha => exact complete_queueLaws (ha.keep (fun _ _ => queueLaws_act) hs) (ha.controlKept.executing hex)
  | frame => exact hs.frame rfl rfl (fun _ => ⟨rfl, rfl⟩) hs.notices hs.links
  | por => exact resetBegun_queueLaws rfl rfl
  | rst => exact resetBegun_queueLaws rfl rfl
  | rstDuringPor _ hr => exact hs.frame rfl hr.symm (fun _ => ⟨rfl, rfl⟩) hs.notices hs.links
  | resetEnded _ value hr =>
    obtain ⟨hcurrent, hports⟩ := hs.executor.quiet hr
    refine leaveReset_queueLaws value _ _ hcurrent fun q => ?_
    obtain ⟨_, h2, _, h4⟩ := hs.bounded q
    exact ⟨(hports q).1, h2, h4⟩
  | restarted _ p tag =>
    refine leaveReset_queueLaws _ _ _ rfl fun q => ?_
    rw [resetBlocks_port]
    exact ⟨rfl, Nat.zero_le _, Nat.zero_le _⟩

theorem queueLaws_keptByTheClock : KeptByTheClock QueueLaws := by
  have hframe : ∀ {s t : State}, QueueLaws s → t.ports = s.ports → t.executor = s.executor → t.resetState = s.resetState →
      QueueLaws t := fun hs hp he hr => hs.frame he (by rw [hr]) (fun q => by rw [hp]; exact ⟨rfl, rfl⟩) (hs.notices.congr hp)
    fun hl q => by rw [hp]; exact hs.links hl q
  exact ⟨fun _ _ hs => hframe hs rfl rfl rfl, fun _ _ hs => hframe hs rfl rfl rfl, fun _ hs => hframe hs rfl rfl rfl,
    fun _ _ hs => hframe hs rfl rfl rfl, fun _ hs => hframe hs rfl rfl rfl⟩

/-- Settles O51: the two laws together are kept by every effect of a command and by the clock. -/
theorem everyStepKeepsTheQueuesAndTheExecutor : Obligations.EveryStepKeepsTheQueuesAndTheExecutor := by
  intro s t hb he hstep
  have ht : QueueLaws t := step_keeps queueLaws_keptByTheClock (fun _ _ _ hs h => queueLaws_effect (effect_of_exec h) hs)
    ⟨hb, he⟩ hstep
  exact ⟨ht.bounded, ht.executor⟩

end Sys2Proof.Machine
end

section
/-! PROOFS. Steps, the clock and resets: O1 to O4, O44, O47 to O50. -/

namespace Sys2Proof.Machine
open Sys2Proof Host

/-! ### Steps and the clock (O1 to O4) -/

/-- Settles O1: a step with a command waiting is that command. -/
theorem stepTakesTheCommandInFront : Obligations.StepTakesTheCommandInFront := fun _ _ _ => rfl

/-- No command touches the queue of commands. -/
theorem effect_pending {i : Instr} {s t : State} (he : Effect i s t) : t.pending = s.pending := by
  cases he with
  | submitted p =>
    obtain ⟨x, e, h | h⟩ := submitEnd_eq p (updLink p deselect s) <;> rw [h] <;> rfl
  | collected p =>
    obtain ⟨x, e, h⟩ := collectEnd_eq p (updLink p deselect s)
    rw [h]
    rfl
  | noticeCollected p =>
    obtain ⟨x, h⟩ := collectNoticeEnd_eq p (updLink p deselect s)
    rw [h]
    rfl
  | changed ha => exact ha.controlKept.pending
  | executed p r y _ ha => rw [complete_pending, ha.controlKept.pending]
  | _ => rfl

/-- Settles O2: by the one case distinction over the rows. -/
theorem everyCommandAndEveryStepGoesOn : Obligations.EveryCommandAndEveryStepGoesOn := by
  have hexec : ∀ (c : Instr) (s : State), ∃ t, exec c s = .next t ∧ t.pending = s.pending := fun c s => by
    obtain ⟨t, ht, he⟩ := exec_effect c s
    exact ⟨t, ht, effect_pending he⟩
  refine ⟨hexec, fun s => ?_⟩
  unfold step
  split
  · next c rest _ =>
    obtain ⟨t, ht, _⟩ := hexec c { s with pending := rest }
    exact ⟨t, ht⟩
  · unfold idleStep
    split
    · exact ⟨_, rfl⟩
    · split
      · exact ⟨_, rfl⟩
      · next p r _ =>
        dsimp only
        split
        · obtain ⟨t, ht, _⟩ := hexec (commandOfRequest r) { s with freeCount := s.freeCount + 1 }
          exact ⟨t, ht⟩
        · exact ⟨_, rfl⟩

theorem resetLasts_of_lasting {s : State} (hr : s.resetState.lasting ≠ none) : resetLasts s = true :=
  Option.isSome_iff_ne_none.2 hr

theorem resetLasts_of_none {s : State} (hr : s.resetState.lasting = none) : resetLasts s = false := by
  simp [resetLasts, hr]

theorem step_idle {s : State} (h : s.pending = []) : step s = idleStep s := by
  simp [step, h]

/-- With a request in execution, the execution ends or a core clock passes (notes/assumptions/4.md). -/
theorem idleStep_executing {p : Port} {r : Request} {s : State} (he : Executing p r s) : ∃ n,
    idleStep s = exec (commandOfRequest r) { s with freeCount := n } ∨
      idleStep s = .next (coreClock { s with freeCount := n }) := by
  refine ⟨s.freeCount + 1, ?_⟩
  unfold idleStep
  rw [resetLasts_of_none he.1, (inExecution_iff s p r).2 he]
  by_cases hend : Config.executionEnds s.freeCount = true <;> simp [hend]

/-- The clock within a unit, at the end of a unit, and at the end of a frame (R140). -/
theorem advanceFrame_within {g : OutputGenerator} (h : g.unitClocks + 1 < g.prescaleApplied) :
    advanceFrame g = ({ g with unitClocks := g.unitClocks + 1 }, false) := if_pos h

theorem advanceFrame_unit {g : OutputGenerator} (h : ¬ g.unitClocks + 1 < g.prescaleApplied) (hp : g.position + 1 < 4096) :
    advanceFrame g = ({ g with unitClocks := 0, position := g.position + 1 }, false) := by
  rw [advanceFrame, if_neg h]
  exact if_pos hp

theorem advanceFrame_end {g : OutputGenerator} (h : ¬ g.unitClocks + 1 < g.prescaleApplied) (hp : ¬ g.position + 1 < 4096) :
    advanceFrame g = ({ g with unitClocks := 0, position := 0 }, true) := by
  rw [advanceFrame, if_neg h]
  exact if_neg hp

/-- A core clock between two ticks of the time base. -/
theorem coreClock_noTick {s : State} (h : s.tickClocks + 1 < 32000) : coreClock s =
    takeDue (if (advanceFrame s.output).2 then [.frame] else [])
      { s with output := (advanceFrame s.output).1, tickClocks := s.tickClocks + 1 } := if_pos h

theorem coreClock_tick {s : State} (h : ¬ s.tickClocks + 1 < 32000) : coreClock s =
    takeDue (dueAtTick { s with output := (advanceFrame s.output).1 } ++ if (advanceFrame s.output).2 then [.frame] else [])
      (tickTimers { s with output := (advanceFrame s.output).1 }) := if_neg h

/-- The frame timer touches no hold, so it does not move what falls due. -/
theorem dueAtTick_advanceFrame (s : State) : dueAtTick { s with output := (advanceFrame s.output).1 } = dueAtTick s := by
  simp only [dueAtTick, advanceFrame_holds]

theorem tickKeepalive_ite : tickKeepalive = fun x =>
    if x.state = .attached ∧ x.keepalivePeriod ≠ 0 then { x with keepaliveRemaining := x.keepaliveRemaining - 1 } else x := by
  funext x
  simp only [tickKeepalive, keepaliveRuns_iff]

/-- Settles O3: the branches of the idle step, of the core clock, and of the frame timer. -/
theorem idleStepIsACoreClock : Obligations.IdleStepIsACoreClock := by
  refine ⟨?lasts, ?waits, ?executes, ?within, ?unit, ?frame, ?tick⟩
  case lasts =>
    intro s hp hr
    rw [step_idle hp, idleStep, resetLasts_of_lasting hr]
    rfl
  case waits =>
    intro s hp hr hx
    rw [step_idle hp, idleStep, resetLasts_of_none hr, hx]
    rfl
  case executes =>
    intro s p r hp he
    rw [step_idle hp]
    exact idleStep_executing he
  case within =>
    intro s _ htick hunit
    rw [coreClock_noTick htick, advanceFrame_within hunit]
    rfl
  case unit =>
    intro s hs htick hunit hpos
    have hposition := hs.position
    rw [coreClock_noTick htick, advanceFrame_unit (by omega) (by omega)]
    rfl
  case frame =>
    intro s _ htick hunit hpos
    rw [coreClock_noTick htick, advanceFrame_end (by omega) (by omega)]
    rfl
  case tick =>
    intro s htick
    rw [coreClock_tick (by omega), dueAtTick_advanceFrame]
    obtain ⟨order, n, hperm, htake⟩ := takeDue_eq (dueAtTick s ++ if (advanceFrame s.output).2 then [.frame] else [])
      (tickTimers { s with output := (advanceFrame s.output).1 })
    refine ⟨order, n, _, hperm, rfl, htake.trans ?_⟩
    congr 1
    rw [← tickKeepalive_ite]
    simp only [tickTimers, advanceFrame_holds]
    rfl

theorem timer_due_iff {t : Option Nat} : (t.any fun k => decide (k ≤ 1)) = true ↔ ∃ k, t = some k ∧ k ≤ 1 := by
  cases t <;> simp

/-- Settles O4: an expiry is its row, and each member of the list of what falls due is tested by its own timer. -/
theorem expiriesFallWhenATimerReachesZero : Obligations.ExpiriesFallWhenATimerReachesZero := by
  refine ⟨exec_command, fun e s => ?_⟩
  cases e with
  | fade =>
    have hmem : .fade ∈ dueAtTick s ↔ fadeDue s.fades = true := by
      by_cases h : fadeDue s.fades = true <;> simp [dueAtTick, h]
    exact hmem.trans timer_due_iff
  | keepalive p =>
    have hmem : .keepalive p ∈ dueAtTick s ↔ keepaliveDue (s.sessions.get p) = true := by simp [dueAtTick]
    rw [hmem, keepaliveDue, Bool.and_eq_true, keepaliveRuns_iff, decide_eq_true_eq, and_assoc]
  | hold p => exact mem_dueAtTick_hold.trans timer_due_iff
  | loss => simp [dueAtTick, lossDue]
  | frame => simp [dueAtTick]

/-! ### A hold freezes the active levels (O44) -/

theorem Act.active {s t : State} (ha : Act s t) : t.output.active = s.output.active := by
  cases ha <;> simp

theorem Acts.active {s t : State} (h : Acts s t) : t.output.active = s.output.active :=
  Acts.keep (P := fun u => u.output.active = s.output.active) (fun _ _ ha hs => ha.active.trans hs) h rfl

/-- A frame start under a hold takes no level (R141). -/
theorem frameStart_active_held {s : State} (h : anyHold s.output.holds = true) :
    (frameStart s).output.active = s.output.active := if_pos h

/-- Settles O44: of what a command can do, only a frame start and a reset write the table, and the frame start is held. -/
theorem aHoldFreezesTheActiveLevels : Obligations.AHoldFreezesTheActiveLevels := by
  intro c s hhold hr hpor hrst hrestart
  obtain ⟨t, ht, he⟩ := exec_effect c s
  refine ⟨t, ht, ?_⟩
  cases he with
  | submitted p =>
    obtain ⟨x, e, h | h⟩ := submitEnd_eq p (updLink p deselect s) <;> rw [h] <;> rfl
  | collected p =>
    obtain ⟨x, e, h⟩ := collectEnd_eq p (updLink p deselect s)
    rw [h]
    rfl
  | noticeCollected p =>
    obtain ⟨x, h⟩ := collectNoticeEnd_eq p (updLink p deselect s)
    rw [h]
    rfl
  | changed ha => exact ha.active
  | executed p r y _ ha => rw [complete_output, ha.active]
  | frame => exact frameStart_active_held hhold
  | por hi => exact absurd hi hpor
  | rst hi => exact absurd hi hrst
  | rstDuringPor hi => exact absurd hi hrst
  | resetEnded _ _ hl => exact absurd hr hl
  | restarted hi => exact absurd hi hrestart
  | _ => rfl

/-! ### Resets (O47, O48, O50) -/

/-- Settles O47: the values read off. -/
theorem resetValuesAreAsStated : Obligations.ResetValuesAreAsStated := by
  rintro s rfl
  refine ⟨fun h => ?_, rfl, rfl, fun src => by cases src <;> rfl, rfl, fun p => by cases p <;> rfl,
    fun n => get_replicate Scene.empty n, rfl, rfl, rfl, rfl, rfl, rfl, fun p => by cases p <;> rfl, rfl,
    fun p => by cases p <;> exact ⟨rfl, rfl, rfl, rfl, rfl, rfl, rfl⟩, rfl, rfl, rfl⟩
  simp [State.reset, ClaimStore.reset, LevelResolver.reset, ChannelConfig.reset, OutputGenerator.reset]

/-- Settles O50: each law by its lemma about the reset values of its blocks. -/
theorem theLawsHoldAfterReset : Obligations.TheLawsHoldAfterReset := by
  rintro s rfl
  have hqueues : QueueLaws State.reset :=
    queueLaws_of_empty rfl (fun q => by cases q <;> exact ⟨rfl, rfl, le_rfl, rfl⟩) fun h => absurd rfl h
  exact ⟨hqueues.bounded, hqueues.executor, configHeld_reset rfl, poolSound_of_reset rfl rfl, streamSound_of_reset rfl,
    listsOrdered_of_reset rfl, claimsSound_of_reset rfl rfl rfl fun n => by
      simp [State.reset, SceneStore.afterPor, sceneFade], sessionsSound_of_reset rfl rfl rfl,
    resolvedSound_of_reset rfl rfl, scenesSound_afterPor rfl, outputSound_of_reset rfl, holdsSound_of_reset rfl,
    fadeTimerSound_of_reset rfl rfl⟩

/-- The frame that starts at a reset's end shapes no pulse (R153). -/
theorem frameStart_output_reset {s : State} (hresolver : s.resolver = LevelResolver.reset)
    (houtput : s.output = OutputGenerator.reset) : (frameStart s).output = OutputGenerator.reset := by
  have hconfig : ∀ h, s.resolver.config.get h = ChannelConfig.reset := fun h => by rw [hresolver]; exact get_replicate _ h
  have hresolved : ∀ h, (s.resolver.resolved.get h).level = 0 := fun h => by
    rw [hresolver]
    simp [LevelResolver.reset]
  have hconst : ∀ {α : Type} (x : α), (Vector.ofFn fun _ : Chan => x) = Vector.replicate 64 x := fun x =>
    ext_get fun h => by simp
  have hfree : anyHold OutputGenerator.reset.holds = false := rfl
  simp only [frameStart, hconfig, hresolved, houtput, hfree, hconst]
  simp only [OutputGenerator.reset, ChannelConfig.reset, get_replicate]
  rfl

/-- Every block but the scene store holds its reset values. -/
def BlocksReset (u : State) : Prop :=
  u = { State.reset with
    ports := u.ports, scenes := u.scenes, resetState := u.resetState, freeCount := u.freeCount, pending := u.pending }

theorem blocksReset_resetBlocks (s : State) : BlocksReset (resetBlocks s) := rfl

theorem blocksReset_begun (s : State) (scenes : SceneStore) (x : ResetState) :
    BlocksReset { resetBlocks s with scenes := scenes, resetState := x } := rfl

/-- The end of a reset of such a state (R171, R173, R183). -/
theorem leaveReset_eq {u : State} (hu : BlocksReset u) (value : BitVec 16) (subject tag : Byte) : leaveReset value subject tag u =
    { State.reset with
      ports := (leaveReset value subject tag u).ports, scenes := u.scenes, freeCount := u.freeCount, pending := u.pending } := by
  have houtput : (leaveReset value subject tag u).output = OutputGenerator.reset :=
    frameStart_output_reset (by rw [hu]; rfl) (by rw [hu]; rfl)
  have hframe : leaveReset value subject tag u =
      { u with
        ports := (leaveReset value subject tag u).ports
        resetState := { lasting := none, pinLow := false }
        output := (leaveReset value subject tag u).output } := rfl
  rw [hframe, houtput]
  conv_lhs => rw [hu]
  rfl

theorem leaveReset_port (value : BitVec 16) (subject tag : Byte) (u : State) (q : Port) :
    (leaveReset value subject tag u).ports.get q =
      { u.ports.get q with notices := [restartedNotice value subject tag] } := by
  simp [leaveReset]

theorem reset_port (q : Port) : State.reset.ports.get q = portAfterPor := by
  cases q <;> rfl

/-- From the beginning of a reset to its end: links and outcomes may move on, the rest stands. -/
theorem resetEnded_eq {s u v : State} (value : BitVec 16) (hu : BlocksReset u) (hports : u.ports = (resetBlocks s).ports)
    (hv : v = { u with ports := v.ports, resetState := v.resetState, pending := v.pending })
    (hport : ∀ q, v.ports.get q = { u.ports.get q with link := (v.ports.get q).link, outcome := (v.ports.get q).outcome }) :
    leaveReset value 0xFF 0 v =
      { State.reset with
        ports := (leaveReset value 0xFF 0 v).ports, scenes := u.scenes, freeCount := u.freeCount, pending := v.pending } ∧
    ∀ q, (leaveReset value 0xFF 0 v).ports.get q =
      { State.reset.ports.get q with
        link := (v.ports.get q).link
        outcome := (v.ports.get q).outcome
        notices := [restartedNotice value 0xFF 0] } := by
  have hreset : BlocksReset v := by
    unfold BlocksReset at hu ⊢
    rw [hv, hu]
  have hscenes : v.scenes = u.scenes := by rw [hv]
  have hfree : v.freeCount = u.freeCount := by rw [hv]
  refine ⟨(leaveReset_eq hreset value 0xFF 0).trans (by rw [hscenes, hfree]), fun q => ?_⟩
  rw [leaveReset_port, hport, hports, resetBlocks_port, reset_port]
  rfl

theorem exec_restart {p : Port} {r : Request} {s : State} (h : Admitted .restart p r s) :
    exec .restart s = .next (leaveReset 2 (portCode p) r.tag (resetBlocks s)) := by
  change Outcome.next (restartEvent s) = _
  simp only [restartEvent, (inExecution_iff s p r).2 h.1, h.2.1, if_true, earlyRefusal_none h]

theorem exec_rst {s : State} (hr : s.resetState.lasting = none) :
    exec .rst s = .next { resetBlocks s with resetState := { lasting := some .rst, pinLow := true } } := by
  change Outcome.next (rstEvent s) = _
  rw [rstEvent, hr]

theorem exec_resetEnd_por {s : State} (hr : s.resetState.lasting = some .por) :
    exec .resetEnd s = .next (leaveReset 0 0xFF 0 s) := by
  change Outcome.next (resetEnd s) = _
  rw [resetEnd, hr]

theorem exec_resetEnd_rst {s : State} (hr : s.resetState.lasting = some .rst) :
    exec .resetEnd s = .next (leaveReset 1 0xFF 0 s) := by
  change Outcome.next (resetEnd s) = _
  rw [resetEnd, hr]

/-- Settles O48: the beginning of each reset is `resetBlocks`, its end `leaveReset`, and RESTART is the two in one. -/
theorem resetsLeaveEveryBlockAtItsResetValues : Obligations.ResetsLeaveEveryBlockAtItsResetValues := by
  rintro s port during rfl rfl
  have hlink : ∀ q, ((resetBlocks s).ports.get q).link = voidLink (s.ports.get q).link ∧
      ((resetBlocks s).ports.get q).outcome = .none := fun q => by rw [resetBlocks_port]; exact ⟨rfl, rfl⟩
  refine ⟨⟨_, rfl, rfl, hlink, ?por⟩, fun hr => ⟨_, exec_rst hr, rfl, hlink, ?rst⟩, fun hr => ?none, ?restart⟩
  case por =>
    rintro v ⟨hl, hv, hport⟩
    obtain ⟨hstate, hports⟩ := resetEnded_eq 0 (blocksReset_begun s SceneStore.afterPor ⟨some .por, s.resetState.pinLow⟩) rfl hv hport
    exact ⟨_, exec_resetEnd_por hl, hstate, hports⟩
  case rst =>
    rintro v ⟨hl, hv, hport⟩
    obtain ⟨hstate, hports⟩ := resetEnded_eq 1 (blocksReset_begun s s.scenes ⟨some .rst, true⟩) rfl hv hport
    exact ⟨_, exec_resetEnd_rst hl, hstate, hports⟩
  case none =>
    change Outcome.next (resetEnd s) = _
    rw [resetEnd, hr]
  case restart =>
    intro p r ha
    refine ⟨_, exec_restart ha, leaveReset_eq (blocksReset_resetBlocks s) .., fun q => ?_⟩
    rw [leaveReset_port, resetBlocks_port]
    cases q <;> rfl

/-! ### While a reset lasts (O49) -/

/-- Outside the links and the last-submit outcomes nothing has changed. -/
def LinksAndOutcomes (s t : State) : Prop :=
  t = { s with ports := t.ports } ∧
    ∀ q, t.ports.get q = { s.ports.get q with link := (t.ports.get q).link, outcome := (t.ports.get q).outcome }

theorem LinksAndOutcomes.refl (s : State) : LinksAndOutcomes s s := ⟨rfl, fun _ => rfl⟩

theorem linksAndOutcomes_set (s : State) (p : Port) (l : Link) (o : SubmitOutcome) :
    LinksAndOutcomes s { s with ports := s.ports.set p { s.ports.get p with link := l, outcome := o } } := by
  refine ⟨rfl, fun q => ?_⟩
  simp only [PerPort.get_set]
  split
  · next h => rw [h]
  · rfl

/-- A transaction row whose deassertion, of a link that the reset met, stays within links and outcomes. -/
theorem transact_linksAndOutcomes {s : State} {isThis : Option Transaction → Bool} {atEnd : State → State} {p : Port}
    (hend : (s.ports.get p).link.selected = true → LinksAndOutcomes s (atEnd (updLink p deselect s))) (act : LinkAct) :
    LinksAndOutcomes s (transact isThis atEnd p act s) := by
  unfold transact
  split
  · exact .refl s
  · next hsel =>
    cases act with
    | clock sdi =>
      dsimp only
      split
      · obtain ⟨heq, _⟩ := clockBits_link sdi (s.ports.get p)
        rw [updPort, heq]
        exact linksAndOutcomes_set s p _ _
      · exact .refl s
    | deassert =>
      dsimp only
      split
      · exact hend (by simpa using hsel)
      · exact .refl s

/-- The commands that the ends of the links bring. -/
def isLinkCommand : Instr → Bool
  | .submit _ _ | .collect _ _ | .collectNotice _ _ | .status _ _ | .unrecognisedTransaction _ _ | .selectAssertion _ => true
  | _ => false

section lasts
variable {s : State} (hr : s.resetState.lasting ≠ none)
include hr

theorem inExecution_of_lasting : inExecution s = none := by
  simp [inExecution, resetLasts_of_lasting hr]

theorem execute_of_lasting (k : Kind) (run : Port → Request → State → Reply) : execute k run s = s := by
  simp [execute, inExecution_of_lasting hr]

theorem takesFall_of_lasting (lead : List Bool) : takesFall lead s = false := by
  simp [takesFall, resetLasts_of_lasting hr]

/-- No command but the six of the links and the three of the resets is taken (R183). -/
theorem exec_of_lasting {c : Instr} (hlink : isLinkCommand c = false)
    (hpor : c ≠ .por) (hrst : c ≠ .rst) (hend : c ≠ .resetEnd) : exec c s = .next s := by
  have hlasts := resetLasts_of_lasting hr
  have hwaits := inExecution_of_lasting hr
  cases c with
  | submit p act => cases hlink
  | collect p act => cases hlink
  | collectNotice p act => cases hlink
  | status p act => cases hlink
  | unrecognisedTransaction p act => cases hlink
  | selectAssertion p => cases hlink
  | por => exact absurd rfl hpor
  | rst => exact absurd rfl hrst
  | resetEnd => exact absurd rfl hend
  | unknownKind => exact congrArg Outcome.next (by rw [unknownKind, hwaits])
  | restart => exact congrArg Outcome.next (by rw [restartEvent, hwaits])
  | fadeStep => exact congrArg Outcome.next (if_pos (.inl hlasts))
  | lapse p => exact congrArg Outcome.next (if_pos (.inl hlasts))
  | holdTimerExpiry p => exact congrArg Outcome.next (if_pos (.inl hlasts))
  | lossTimerExpiry => exact congrArg Outcome.next (if_pos (.inl hlasts))
  | frameStart => exact congrArg Outcome.next (if_pos hlasts)
  | idle => exact congrArg Outcome.next (if_pos (.inl hlasts))
  | markWord w => exact congrArg Outcome.next (if_pos (takesFall_of_lasting hr w.lead))
  | streamWord w => exact congrArg Outcome.next (if_pos (takesFall_of_lasting hr w.lead))
  | framingError w => exact congrArg Outcome.next (if_pos (takesFall_of_lasting hr w.lead))
  | falseStart w =>
    exact congrArg Outcome.next (if_neg (by rw [takesFall_of_lasting hr w.lead]; exact Bool.false_ne_true))
  | _ => exact congrArg Outcome.next (execute_of_lasting hr _ _)

end lasts

/-- A link that a reset has met drives 0 (R172). -/
theorem sdoPin_voided {s : State} {p : Port} (hsel : (s.ports.get p).link.selected = true)
    (hvoid : (s.ports.get p).link.voided = true) : sdoPin s p = some false := by
  simp [sdoPin, sdoBit, hsel, hvoid]

theorem sdoPin_undriven {s : State} {p : Port} (hsel : (s.ports.get p).link.selected = false) : sdoPin s p = none := by
  simp [sdoPin, hsel]

/-- Settles O49: a link command ends a transaction that the reset met, which removes nothing and is DISCARDED; no other is taken. -/
theorem nothingRunsWhileAResetLasts : Obligations.NothingRunsWhileAResetLasts := by
  intro s hr hs
  obtain ⟨_, hports⟩ := hs.quiet hr
  have hvoid : ∀ p, (s.ports.get p).link.selected = true → (s.ports.get p).link.voided = true := fun p => (hports p).2
  have hdeselected : ∀ p, LinksAndOutcomes s (updLink p deselect s) := fun p => linksAndOutcomes_set s p _ _
  refine ⟨fun c hpor hrst hend => ?commands, fun hl => ?during, fun hl => ?again, fun p hsel => sdoPin_voided hsel (hvoid p hsel),
    fun p => sdoPin_undriven⟩
  case during =>
    change Outcome.next (rstEvent s) = _
    rw [rstEvent, hl]
  case again =>
    change Outcome.next (rstEvent s) = _
    rw [rstEvent, hl]
  case commands =>
    have hshort : ∀ p, (s.ports.get p).link.selected = true →
        headShiftedOut ((updLink p deselect s).ports.get p).link = false := fun p hsel => by
      rw [Bool.eq_false_iff, Ne, headShiftedOut_iff]
      rintro ⟨_, _, hnot, _⟩
      rw [updLink_ports, PerPort.get_set_self] at hnot
      rw [show (deselect (s.ports.get p).link).voided = true from hvoid p hsel] at hnot
      cases hnot
    cases c with
    | submit p act =>
      refine ⟨_, rfl, transact_linksAndOutcomes (fun hsel => ?_) act⟩
      have hmet : ((updLink p deselect s).ports.get p).link.voided = true := by simpa [deselect] using hvoid p hsel
      rw [submitEnd, if_pos hmet]
      simpa [latchOutcome, updPort, updLink] using linksAndOutcomes_set s p (deselect (s.ports.get p).link) .discarded
    | collect p act =>
      refine ⟨_, rfl, transact_linksAndOutcomes (fun hsel => ?_) act⟩
      rw [collectEnd, hshort p hsel]
      exact hdeselected p
    | collectNotice p act =>
      refine ⟨_, rfl, transact_linksAndOutcomes (fun hsel => ?_) act⟩
      rw [collectNoticeEnd, hshort p hsel]
      exact hdeselected p
    | status p act => exact ⟨_, rfl, transact_linksAndOutcomes (fun _ => hdeselected p) act⟩
    | unrecognisedTransaction p act => exact ⟨_, rfl, transact_linksAndOutcomes (fun _ => hdeselected p) act⟩
    | selectAssertion p =>
      refine ⟨_, rfl, ?_⟩
      split
      · exact LinksAndOutcomes.refl s
      · exact linksAndOutcomes_set s p _ _
    | _ => exact ⟨s, exec_of_lasting hr rfl hpor hrst hend, LinksAndOutcomes.refl s⟩

end Sys2Proof.Machine
end

section
/-! PROOFS. The links: O5 to O12. A transaction row is told apart once; a byte on a link is `completeByte`, and several are
a fold of it. -/

namespace Sys2Proof.Machine
open Sys2Proof Host

/-! ### The rows of the links -/

/-- The test by which a row names its transaction. -/
def isRow : Transaction → Option Transaction → Bool
  | .submit => fun t => t == some .submit
  | .collect => fun t => t == some .collect
  | .collectNotice => fun t => t == some .collectNotice
  | .status => fun t => t == some .status
  | .unrecognised _ => isUnrecognised

/-- What a row does at its deassertion, beyond the link. -/
def rowEnd : Transaction → Port → State → State
  | .submit => submitEnd
  | .collect => collectEnd
  | .collectNotice => collectNoticeEnd
  | .status | .unrecognised _ => fun _ => id

theorem exec_transactionRow (tr : Transaction) (p : Port) (act : LinkAct) (s : State) :
    exec (transactionRow tr p act) s = .next (transact (isRow tr) (rowEnd tr p) p act s) := by
  cases tr <;> rfl

theorem isRow_self (tr : Transaction) : isRow tr (some tr) = true := by
  cases tr <;> rfl

section transact
variable {isThis : Option Transaction → Bool} {atEnd : State → State} {p : Port} {s : State}

/-- While select is high the part ignores the clock (R154). -/
theorem transact_high (hsel : (s.ports.get p).link.selected = false) (act : LinkAct) : transact isThis atEnd p act s = s := by
  simp [transact, hsel]

theorem transact_clock (hsel : (s.ports.get p).link.selected = true) {sdi : List Bool}
    (hthis : isThis (clockBits sdi (s.ports.get p)).link.transaction = true) :
    transact isThis atEnd p (.clock sdi) s = updPort p (clockBits sdi) s := by
  simp [transact, hsel, hthis]

theorem transact_deassert (hsel : (s.ports.get p).link.selected = true) (hthis : isThis (s.ports.get p).link.transaction = true) :
    transact isThis atEnd p .deassert s = atEnd (updLink p deselect s) := by
  simp [transact, hsel, hthis]

end transact

section rows
variable {p : Port} {s : State}

/-- A row that clocks its own transaction clocks the port. -/
theorem exec_clock (hsel : (s.ports.get p).link.selected = true) {tr : Transaction} {sdi : List Bool}
    (hthis : (clockBits sdi (s.ports.get p)).link.transaction = some tr) :
    exec (transactionRow tr p (.clock sdi)) s = .next (updPort p (clockBits sdi) s) := by
  rw [exec_transactionRow, transact_clock hsel (by rw [hthis]; exact isRow_self tr)]

theorem exec_deassert (hsel : (s.ports.get p).link.selected = true) {tr : Transaction}
    (hthis : isRow tr (s.ports.get p).link.transaction = true) :
    exec (transactionRow tr p .deassert) s = .next (rowEnd tr p (updLink p deselect s)) := by
  rw [exec_transactionRow, transact_deassert hsel hthis]

theorem exec_select (hsel : (s.ports.get p).link.selected = false) : exec (.selectAssertion p) s =
    .next (updPort p (fun pi => { pi with link := openLink (resetLasts s) pi }) s) := by
  change Outcome.next (if _ then _ else _) = _
  rw [hsel]
  rfl

end rows

/-! ### O5: the fall of select (R154 to R156, R187) -/

/-- The four fields of a status byte, most significant first. -/
theorem statusFields_toNat (a b : Bool) (c : BitVec 2) (n : Fin 9) :
    (BitVec.ofBool a ++ BitVec.ofBool b ++ c ++ BitVec.ofNat 4 n.val).toNat = 128 * a.toNat + 64 * b.toNat + 16 * c.toNat + n.val := by
  revert a b c n
  decide

theorem statusByte_toNat {pi : PortInterface} (h : pi.requests.length ≤ 8) : (statusByte pi).toNat =
    128 * (!pi.notices.isEmpty).toNat + 64 * (!pi.responses.isEmpty).toNat + 16 * pi.outcome.code.toNat +
      (8 - pi.requests.length) :=
  statusFields_toNat _ _ _ ⟨8 - pi.requests.length, by omega⟩

/-- The first bit of a transaction is on SDO from the fall of select (R154). -/
theorem sdoBit_open (lasts : Bool) (pi : PortInterface) :
    sdoBit (openLink lasts pi) = (openLink lasts pi).status.getLsbD 7 := by
  cases lasts
  · rfl
  · exact (BitVec.getLsbD_zero (w := 8)).symm

/-- Settles O5: the link opened, its status byte by fields, and what a high select leaves alone. -/
theorem selectAssertionFormsTheStatusByte : Obligations.SelectAssertionFormsTheStatusByte := by
  intro p s
  refine ⟨fun hsel => congrArg Outcome.next (if_pos hsel), fun hsel hlen => ?_,
    fun hsel => ⟨sdoPin_undriven hsel, fun tr act => by rw [exec_transactionRow, transact_high hsel]⟩⟩
  refine ⟨openLink (resetLasts s) (s.ports.get p), exec_select hsel, ⟨rfl, rfl, rfl⟩, rfl, rfl, rfl, rfl, ?_, ?_⟩
  · rw [sdoPin, PerPort.get_set_self, ← sdoBit_open]
    rfl
  · split
    · next hr =>
      rw [resetLasts_of_none hr]
      exact ⟨rfl, statusByte_toNat hlen⟩
    · next hr =>
      rw [resetLasts_of_lasting hr]
      exact ⟨rfl, rfl⟩

/-! ### O6 and O7: bytes (R155, R157, R160, R161, R172) -/

/-- The code of a byte 0. -/
theorem transactionOfCode_of {tr : Transaction} {code : Byte}
    (h : match tr with
      | .submit => code = 0x6C
      | .collect => code = 0x93
      | .collectNotice => code = 0x95
      | .status => code = 0xC1
      | .unrecognised x => code = x ∧ x ≠ 0x6C ∧ x ≠ 0x93 ∧ x ≠ 0x95 ∧ x ≠ 0xC1) : transactionOfCode code = tr := by
  cases tr with
  | unrecognised x =>
    obtain ⟨rfl, h1, h2, h3, h4⟩ := h
    rw [transactionOfCode, if_neg h1, if_neg h2, if_neg h3, if_neg h4]
  | _ =>
    obtain rfl : code = _ := h
    rfl

section byte
variable {b o : Byte} {pi : PortInterface} (hin : pi.link.inBits = []) (hout : pi.link.outBits = [])
include hin hout

/-- A first byte: the code is recognised and the entry is chosen. -/
theorem completeByte_first (h : pi.link.transaction = none) : completeByte b o pi =
    { pi with
      link := { pi.link with
        shifted := pi.link.shifted ++ [o]
        transaction := some (transactionOfCode b)
        head := chosenHead (transactionOfCode b) pi } } := by
  simp only [completeByte, h]
  rw [hin, hout]

/-- A later byte: staged in a SUBMIT, ignored elsewhere. -/
theorem completeByte_later {tr : Transaction} (h : pi.link.transaction = some tr) : completeByte b o pi =
    { pi with
      link := { pi.link with
        shifted := pi.link.shifted ++ [o]
        staging := if tr = .submit then stageByte b pi.link.staging else pi.link.staging } } := by
  cases tr <;> simp [completeByte, h, hin, hout]

end byte

theorem byteOut_first {l : Link} (h : l.shifted = []) : byteOut l = if l.voided then 0 else l.status := by
  simp [byteOut, outByte, h]

theorem byteOut_later {l : Link} {n : Nat} (h : l.shifted.length = n + 1) :
    byteOut l = if l.voided then 0 else (l.head.getD []).getD n 0 := by
  simp [byteOut, outByte, h]

/-- A whole byte clocked by the row of its transaction. -/
theorem exec_byte {p : Port} {s : State} {tr : Transaction} {b : Byte} (hl : AtByteBoundary (s.ports.get p).link)
    (htr : (s.ports.get p).link.transaction.getD (transactionOfCode b) = tr) :
    exec (transactionRow tr p (.clock (bitsOfByte b))) s =
      .next { s with ports := s.ports.set p (completeByte b (byteOut (s.ports.get p).link) (s.ports.get p)) } := by
  obtain ⟨hsel, hin, hout⟩ := hl
  have hbyte := clockBits_byte b (s.ports.get p) hin hout
  rw [exec_clock hsel (by rw [hbyte, completeByte_transaction, htr]), updPort, hbyte]

/-- Settles O6: the status byte goes out, and the code's transaction is recognised. -/
theorem firstByteIsAnExchange : Obligations.FirstByteIsAnExchange := by
  intro tr code p s hcode hl htr hshifted
  have hrow := transactionOfCode_of hcode
  have ⟨_, hin, hout⟩ := hl
  rw [exec_byte hl (by rw [htr]; exact hrow), completeByte_first hin hout htr, byteOut_first hshifted, hrow, hshifted]
  cases tr <;> rfl

/-- A byte is staged while it belongs to the header or to the declared body (R157). -/
theorem stageByte_eq (b : Byte) (l : List Byte) : stageByte b l =
    if l.length < 4 ∨ (declaredLength l ≤ 200 ∧ l.length < 4 + declaredLength l) then l ++ [b] else l := by
  unfold stageByte
  by_cases h : l.length < 4
  · simp [h]
  · simp only [h, if_false, false_or]
    rfl

/-- Settles O7: the byte of the entry goes out, and a SUBMIT stages what belongs to it. -/
theorem laterBytesShiftOutTheEntryChosen : Obligations.LaterBytesShiftOutTheEntryChosen := by
  intro tr b n p s hl htr hshifted
  have ⟨_, hin, hout⟩ := hl
  rw [exec_byte hl (by rw [htr]; rfl), completeByte_later hin hout htr, byteOut_later hshifted, stageByte_eq, ← ite_and]

/-! ### O8 to O10: deassertions (R154, R158 to R161, R172) -/

/-- The request that a whole SUBMIT stages (R157). -/
theorem stagedRequest_some {staging : List Byte} (h : ¬ FallsShort staging) : stagedRequest staging =
    some { kind := staging.getD 0 0, tag := staging.getD 1 0, length := declaredLength staging,
           body := (staging.drop 4).take (declaredLength staging) } := by
  obtain ⟨h4, h200, hwhole⟩ : ¬ staging.length < 4 ∧ ¬ 200 < declaredLength staging ∧
      ¬ staging.length < 4 + declaredLength staging := by
    simpa only [FallsShort, not_or] using h
  rw [stagedRequest, if_neg h4]
  exact if_neg (not_or.2 ⟨h200, hwhole⟩)

theorem deselect_port (p : Port) (s : State) :
    (updLink p deselect s).ports.get p = { s.ports.get p with link := deselect (s.ports.get p).link } := by
  rw [updLink_ports, PerPort.get_set_self]

section submitEnd
variable {p : Port} {s : State}

theorem submitEnd_discarded (h : (s.ports.get p).link.voided = true ∨ FallsShort (s.ports.get p).link.staging) :
    submitEnd p s = latchOutcome p .discarded s := by
  rw [submitEnd]
  split
  · rfl
  · next hvoid =>
    rw [(stagedRequest_none _).2 (h.resolve_left hvoid)]

variable (hvoid : (s.ports.get p).link.voided = false) (hwhole : ¬ FallsShort (s.ports.get p).link.staging)
include hvoid hwhole

theorem submitEnd_refused (hfull : 8 ≤ (s.ports.get p).requests.length) : submitEnd p s = latchOutcome p .refusedFull s := by
  simp only [submitEnd, hvoid, Bool.false_eq_true, if_false, stagedRequest_some hwhole]
  exact if_pos hfull

theorem submitEnd_accepted (hroom : (s.ports.get p).requests.length < 8) : submitEnd p s =
    chooseNext (updSession p keepaliveRestarted (updPort p (fun pi => { pi with
      outcome := .accepted
      requests := pi.requests ++
        [{ kind := pi.link.staging.getD 0 0
           tag := pi.link.staging.getD 1 0
           length := declaredLength pi.link.staging
           body := (pi.link.staging.drop 4).take (declaredLength pi.link.staging) }] }) s)) := by
  simp only [submitEnd, hvoid, Bool.false_eq_true, if_false, stagedRequest_some hwhole]
  exact if_neg (not_le.2 hroom)

end submitEnd

/-- What the executor does at the end of a transaction (R167): it chooses if it waits, and else goes on. -/
theorem chooseNext_executor {s u : State} (hr : u.resetState.lasting = none) (he : u.executor = s.executor) :
    if s.executor.current = none then NextChoice s.executor.lastServed (chooseNext u)
    else (chooseNext u).executor = s.executor := by
  rw [← he]
  cases hc : u.executor.current with
  | none => exact chooseNext_choice u hr hc
  | some q =>
    rw [chooseNext_busy u hc]
    rfl

/-- Settles O8: the three cases of the end of a SUBMIT. -/
theorem submitDeassertionDecidesTheOutcome : Obligations.SubmitDeassertionDecidesTheOutcome := by
  rintro p s pi l rfl hsel htr rfl
  have hexec : exec (.submit p .deassert) s = .next (submitEnd p (updLink p deselect s)) :=
    exec_deassert (tr := .submit) hsel (by rw [htr]; rfl)
  have hget := deselect_port p s
  rw [hexec]
  refine ⟨fun h => ?_, fun hvoid hwhole hfull => ?_, fun hvoid hwhole hroom hr => ⟨_, rfl, ?_⟩⟩
  · rw [submitEnd_discarded (by rw [hget]; exact h)]
    simp [latchOutcome, updPort, updLink, deselect]
  · rw [submitEnd_refused (by rw [hget]; exact hvoid) (by rw [hget]; exact hwhole) (by rw [hget]; exact hfull)]
    simp [latchOutcome, updPort, updLink, deselect]
  · rw [submitEnd_accepted (by rw [hget]; exact hvoid) (by rw [hget]; exact hwhole) (by rw [hget]; exact hroom)]
    refine ⟨?_, chooseNext_executor hr rfl⟩
    conv_lhs => rw [chooseNext_eq]
    simp [updSession, updPort, updLink, deselect, keepaliveRestarted, restartKeepalive]

/-- The outcome is that of the port as it was, everywhere. -/
def OutcomesKept (s t : State) : Prop := ∀ q, (t.ports.get q).outcome = (s.ports.get q).outcome

theorem OutcomesKept.refl (s : State) : OutcomesKept s s := fun _ => rfl

theorem OutcomesKept.trans {s t u : State} (h : OutcomesKept s t) (k : OutcomesKept t u) : OutcomesKept s u :=
  fun q => (k q).trans (h q)

theorem outcomesKept_updPort {p : Port} {f : PortInterface → PortInterface} {s : State}
    (h : (f (s.ports.get p)).outcome = (s.ports.get p).outcome) : OutcomesKept s (updPort p f s) := fun q => by
  rw [updPort_ports, PerPort.get_set]
  split
  · next hq => rw [hq, h]
  · rfl

theorem collectEnd_outcomesKept (p : Port) (s : State) : OutcomesKept s (collectEnd p s) := by
  unfold collectEnd
  split
  · intro q
    rw [chooseNext_ports]
    exact outcomesKept_updPort rfl q
  · exact .refl s

theorem collectNoticeEnd_outcomesKept (p : Port) (s : State) : OutcomesKept s (collectNoticeEnd p s) := by
  unfold collectNoticeEnd
  split
  · exact outcomesKept_updPort rfl
  · exact .refl s

theorem Acts.outcomesKept {s t : State} (h : Acts s t) : OutcomesKept s t := fun q => by
  rw [h.controlKept.ports q]

/-- The effects other than the end of a SUBMIT and the beginning of a reset write no outcome. -/
theorem effect_outcomesKept {i : Instr} {s t : State} (he : Effect i s t) (hsubmit : ∀ p, i ≠ .submit p .deassert)
    (hpor : i ≠ .por) (hrst : i ≠ .rst) (hrestart : i ≠ .restart) : OutcomesKept s t := by
  have hdeselected : ∀ p, OutcomesKept s (updLink p deselect s) := fun p => outcomesKept_updPort rfl
  cases he with
  | opened p => exact outcomesKept_updPort rfl
  | clocked p sdi => exact outcomesKept_updPort (by rw [(clockBits_link sdi (s.ports.get p)).1])
  | deselected p => exact hdeselected p
  | submitted p hi => exact absurd hi (hsubmit p)
  | collected p => exact (hdeselected p).trans (collectEnd_outcomesKept p _)
  | noticeCollected p => exact (hdeselected p).trans (collectNoticeEnd_outcomesKept p _)
  | changed ha => exact ha.outcomesKept
  | executed p r y _ ha =>
    refine ha.outcomesKept.trans fun q => ?_
    rw [complete_ports]
    exact outcomesKept_updPort (f := fun pi => { pi with
      requests := pi.requests.tail
      responses := pi.responses ++ [{ kind := r.kind, tag := r.tag, status := y.status, body := y.body }] }) rfl q
  | frame => exact .refl s
  | por hi => exact absurd hi hpor
  | rst hi => exact absurd hi hrst
  | rstDuringPor hi => exact absurd hi hrst
  | resetEnded _ value => exact fun q => by rw [leaveReset_port]
  | restarted hi => exact absurd hi hrestart

/-- Settles O9: the outcome by the cases of a SUBMIT's end; no other effect but a reset's writes one. -/
theorem onlyASubmitWritesTheOutcome : Obligations.OnlyASubmitWritesTheOutcome := by
  have hreset : ∀ s q, ((resetBlocks s).ports.get q).outcome = .none := fun s q => by rw [resetBlocks_port]; rfl
  refine ⟨fun p s t hsel htr ht => ?_, fun c s t hsubmit hpor hrst hrestart ht =>
    effect_outcomesKept (effect_of_exec ht) hsubmit hpor hrst hrestart, fun s t ht => ?_, fun s t hr ht => ?_,
    fun p r s t ha ht q => ?_⟩
  · have hget := deselect_port p s
    have hother : ∀ q, q ≠ p → (updLink p deselect s).ports.get q = s.ports.get q := fun q hq => by
      rw [updLink_ports, PerPort.get_set_ne _ _ hq]
    have hexec : exec (.submit p .deassert) s = .next (submitEnd p (updLink p deselect s)) :=
      exec_deassert (tr := .submit) hsel (by rw [htr]; rfl)
    obtain rfl := Outcome.next.inj (hexec.symm.trans ht)
    by_cases hshort : (s.ports.get p).link.voided = true ∨ FallsShort (s.ports.get p).link.staging
    · rw [submitEnd_discarded (by rw [hget]; exact hshort), if_pos hshort]
      refine ⟨fun q hq => ?_, ?_⟩
      · rw [latchOutcome_ports, PerPort.get_set_ne _ _ hq, hother q hq]
      · rw [latchOutcome_ports, PerPort.get_set_self]
    obtain ⟨hvoid, hwhole⟩ := not_or.1 hshort
    have hvoid : (s.ports.get p).link.voided = false := by simpa using hvoid
    rw [if_neg hshort]
    by_cases hfull : 8 ≤ (s.ports.get p).requests.length
    · rw [submitEnd_refused (by rw [hget]; exact hvoid) (by rw [hget]; exact hwhole) (by rw [hget]; exact hfull), if_pos hfull]
      refine ⟨fun q hq => ?_, ?_⟩
      · rw [latchOutcome_ports, PerPort.get_set_ne _ _ hq, hother q hq]
      · rw [latchOutcome_ports, PerPort.get_set_self]
    · rw [submitEnd_accepted (by rw [hget]; exact hvoid) (by rw [hget]; exact hwhole) (by rw [hget]; exact not_le.1 hfull),
        if_neg hfull, chooseNext_ports, updSession_ports, updPort_ports]
      refine ⟨fun q hq => ?_, ?_⟩
      · rw [PerPort.get_set_ne _ _ hq, hother q hq]
      · rw [PerPort.get_set_self]
  · obtain rfl := Outcome.next.inj ht
    exact hreset s
  · obtain rfl := Outcome.next.inj ((exec_rst hr).symm.trans ht)
    exact hreset s
  · obtain rfl := Outcome.next.inj ((exec_restart ha).symm.trans ht)
    rw [leaveReset_port]
    exact hreset s q

/-- Settles O10: the two removals by the test of the head, the rest by the row. -/
theorem deassertionRemovesAWholeEntry : Obligations.DeassertionRemovesAWholeEntry := by
  rintro p s pi l rfl hsel rfl
  have hget := deselect_port p s
  have hwhole : headShiftedOut ((updLink p deselect s).ports.get p).link = true ↔ WholeEntryShifted (s.ports.get p).link := by
    rw [headShiftedOut_iff, hget]
    rfl
  have hexec : ∀ tr, isRow tr (s.ports.get p).link.transaction = true →
      exec (transactionRow tr p .deassert) s = .next (rowEnd tr p (updLink p deselect s)) := fun tr => exec_deassert hsel
  refine ⟨fun htr hall hr => ?_, fun htr hall => ?_, fun tr htr => ?_⟩
  · refine ⟨_, hexec .collect (by rw [htr]; rfl), ?_⟩
    rw [rowEnd, collectEnd, if_pos (hwhole.2 hall)]
    refine ⟨?_, chooseNext_executor hr rfl⟩
    conv_lhs => rw [chooseNext_eq]
    simp [updPort, updLink, deselect]
  · refine (hexec .collectNotice (by rw [htr]; rfl)).trans ?_
    rw [rowEnd, collectNoticeEnd, if_pos (hwhole.2 hall)]
    simp [updPort, updLink, deselect]
  · cases tr with
    | submit => exact htr.elim
    | collect =>
      obtain ⟨htr, hpart⟩ := htr
      refine (hexec .collect (by rw [htr]; rfl)).trans ?_
      rw [rowEnd, collectEnd, if_neg (mt hwhole.1 hpart)]
      rfl
    | collectNotice =>
      obtain ⟨htr, hpart⟩ := htr
      refine (hexec .collectNotice (by rw [htr]; rfl)).trans ?_
      rw [rowEnd, collectNoticeEnd, if_neg (mt hwhole.1 hpart)]
      rfl
    | status =>
      have htr : (s.ports.get p).link.transaction = some .status := htr
      exact hexec .status (by rw [htr]; rfl)
    | unrecognised x =>
      obtain htr | htr : (s.ports.get p).link.transaction = some (.unrecognised x) ∨
        (s.ports.get p).link.transaction = none := htr
      · exact hexec (.unrecognised x) (by rw [htr]; rfl)
      · exact hexec (.unrecognised x) (by rw [htr]; rfl)

/-! ### Several bytes -/

/-- Bytes clocked one after another. -/
def shiftBytes (bs : List Byte) (pi : PortInterface) : PortInterface :=
  bs.foldl (fun pi b => completeByte b (byteOut pi.link) pi) pi

theorem clockBits_bytes (bs : List Byte) {pi : PortInterface} (hin : pi.link.inBits = []) (hout : pi.link.outBits = []) :
    clockBits (bitsOfBytes bs) pi = shiftBytes bs pi := by
  induction bs generalizing pi with
  | nil => rfl
  | cons b bs ih =>
    obtain ⟨hin', hout'⟩ := completeByte_boundary b (byteOut pi.link) pi
    have hbits : bitsOfBytes (b :: bs) = bitsOfByte b ++ bitsOfBytes bs := rfl
    rw [hbits, clockBits_append, clockBits_byte b pi hin hout, ih hin' hout']
    rfl

/-- The bytes of a SUBMIT that are staged (R157). -/
def stageAll (bs staging : List Byte) : List Byte := bs.foldl (fun l b => stageByte b l) staging

/-- The declared length stands in the third and fourth byte, so later bytes do not move it. -/
theorem declaredLength_append {l : List Byte} (h : 4 ≤ l.length) (m : List Byte) :
    declaredLength (l ++ m) = declaredLength l := by
  rw [declaredLength, declaredLength, List.getD_append _ _ _ _ (by omega), List.getD_append _ _ _ _ (by omega)]

/-- Every byte of the declared body is staged. -/
theorem stageAll_body {bs l : List Byte} (h : 4 ≤ l.length) (h200 : declaredLength l ≤ 200)
    (hfit : l.length + bs.length ≤ 4 + declaredLength l) : stageAll bs l = l ++ bs := by
  induction bs generalizing l with
  | nil => exact (List.append_nil l).symm
  | cons b bs ih =>
    rw [List.length_cons] at hfit
    have hstage : stageByte b l = l ++ [b] := by
      rw [stageByte_eq]
      exact if_pos (.inr ⟨h200, by omega⟩)
    have hlength := declaredLength_append h [b]
    have hrest := ih (l := l ++ [b]) (by simp; omega) (by omega) (by simp; omega)
    calc stageAll (b :: bs) l = stageAll bs (stageByte b l) := rfl
      _ = l ++ b :: bs := by rw [hstage, hrest, List.append_assoc]; rfl

/-- A whole SUBMIT stages header and body. -/
theorem stageAll_whole {kind tag hi lo : Byte} {body : List Byte} (hlen : (word16 hi lo).toNat = body.length)
    (h200 : body.length ≤ 200) : stageAll (kind :: tag :: hi :: lo :: body) [] = kind :: tag :: hi :: lo :: body := by
  have hdeclared : declaredLength [kind, tag, hi, lo] = body.length := hlen
  have hheader : stageAll (kind :: tag :: hi :: lo :: body) [] = stageAll body [kind, tag, hi, lo] := by
    simp [stageAll, stageByte]
  rw [hheader, stageAll_body (by simp) (by omega) (by simp; omega)]
  rfl

/-- High byte first, and read back so (R185). -/
theorem word16_bytes (w : BitVec 16) : word16 (w.extractLsb' 8 8) (w.extractLsb' 0 8) = w := by
  ext i hi
  rw [word16, BitVec.getElem_append]
  split
  · simp [BitVec.getLsbD_eq_getElem hi]
  · rw [BitVec.getElem_extractLsb', BitVec.getLsbD_eq_getElem (by omega)]
    congr 1
    omega

theorem word16_bytesOf {n : Nat} (h : n < 65536) : ∃ hi lo, bytesOf n = [hi, lo] ∧ (word16 hi lo).toNat = n := by
  refine ⟨_, _, rfl, ?_⟩
  rw [word16_bytes, BitVec.toNat_ofNat, Nat.mod_eq_of_lt h]

/-- The bytes after the code of a SUBMIT. -/
theorem shiftBytes_submit (bs : List Byte) {pi : PortInterface} (hin : pi.link.inBits = []) (hout : pi.link.outBits = [])
    (htr : pi.link.transaction = some .submit) : ∃ shifted, shiftBytes bs pi =
      { pi with link := { pi.link with shifted := shifted, staging := stageAll bs pi.link.staging } } := by
  induction bs generalizing pi with
  | nil => exact ⟨_, rfl⟩
  | cons b bs ih =>
    have hone := completeByte_later (b := b) (o := byteOut pi.link) hin hout htr
    have hcons : shiftBytes (b :: bs) pi = shiftBytes bs (completeByte b (byteOut pi.link) pi) := rfl
    obtain ⟨shifted, hrest⟩ := ih (pi := completeByte b (byteOut pi.link) pi) (by rw [hone]; exact hin) (by rw [hone]; exact hout)
      (by rw [hone]; exact htr)
    refine ⟨shifted, ?_⟩
    rw [hcons, hrest, hone]
    rfl

/-- The bytes after the code of a COLLECT: those of the entry chosen, then 0x00 (R160). -/
theorem shiftBytes_collect (bs : List Byte) {pi : PortInterface} {bytes : List Byte} {n : Nat} (hin : pi.link.inBits = [])
    (hout : pi.link.outBits = []) (htr : pi.link.transaction = some .collect) (hvoid : pi.link.voided = false)
    (hhead : pi.link.head = some bytes) (hshifted : pi.link.shifted.length = n + 1) : shiftBytes bs pi =
      { pi with link := { pi.link with
        shifted := pi.link.shifted ++ (List.range' n bs.length).map fun i => bytes.getD i 0 } } := by
  induction bs generalizing pi n with
  | nil => simp [shiftBytes]
  | cons b bs ih =>
    have hbyte : byteOut pi.link = bytes.getD n 0 := by
      rw [byteOut_later hshifted, hvoid, hhead]
      rfl
    have hone : completeByte b (byteOut pi.link) pi =
        { pi with link := { pi.link with shifted := pi.link.shifted ++ [bytes.getD n 0] } } := by
      rw [completeByte_later hin hout htr, hbyte]
      rfl
    have hcons : shiftBytes (b :: bs) pi = shiftBytes bs (completeByte b (byteOut pi.link) pi) := rfl
    have hrest := ih (pi := completeByte b (byteOut pi.link) pi) (n := n + 1) (by rw [hone]; exact hin)
      (by rw [hone]; exact hout) (by rw [hone]; exact htr) (by rw [hone]; exact hvoid) (by rw [hone]; exact hhead)
      (by rw [hone]; simp [hshifted])
    rw [hcons, hrest, hone]
    simp [List.range'_succ]

/-- An entry read on past its end gives 0x00 (R160). -/
theorem map_getD_range' {l : List Byte} {m : Nat} (h : l.length ≤ m) :
    (List.range' 0 m).map (fun i => l.getD i 0) = l ++ List.replicate (m - l.length) 0 := by
  refine List.ext_getElem (by simp; omega) fun i hi _ => ?_
  rw [List.getElem_map, List.getElem_range', List.getElem_append]
  split
  · next hlt => simp [hlt]
  · next hge => simp [List.getElem?_eq_none (not_lt.1 hge)]

/-! ### Whole transactions (O11, O12) -/

theorem step_command {s : State} {c : Instr} {rest : List Instr} (h : s.pending = c :: rest) :
    step s = exec c { s with pending := rest } := by
  simp only [step, h]

theorem run_succ {s t : State} (h : step s = .next t) (k : Nat) : core.run (k + 1) s = core.run k t := by
  simp only [Core.run, show core.step s = .next t from h]

/-- Three commands in a row. -/
theorem run_three {s s1 s2 t : State} {c1 c2 c3 : Instr} {rest : List Instr}
    (h1 : exec c1 { s with pending := c2 :: c3 :: rest } = .next s1) (hp1 : s1.pending = c2 :: c3 :: rest)
    (h2 : exec c2 { s1 with pending := c3 :: rest } = .next s2) (hp2 : s2.pending = c3 :: rest)
    (h3 : exec c3 { s2 with pending := rest } = .next t) :
    core.run 3 { s with pending := c1 :: c2 :: c3 :: rest } = .next t := by
  have hstep : step { s with pending := c1 :: c2 :: c3 :: rest } = .next s1 := h1
  rw [run_succ hstep, run_succ ((step_command hp1).trans h2), run_succ ((step_command hp2).trans h3)]
  rfl

/-- The port at the fall of select, with no reset lasting. -/
def openedPort (pi : PortInterface) : PortInterface := { pi with link := openLink false pi }

theorem exec_open {p : Port} {s : State} (hsel : (s.ports.get p).link.selected = false) (hr : s.resetState.lasting = none) :
    exec (.selectAssertion p) s = .next { s with ports := s.ports.set p (openedPort (s.ports.get p)) } := by
  rw [exec_select hsel, resetLasts_of_none hr]
  rfl

/-- A SUBMIT clocked whole. -/
theorem clock_submit (pi : PortInterface) (kind tag : Byte) {body : List Byte} (h200 : body.length ≤ 200) : ∃ l hi lo,
    clockBits (bitsOfBytes ([0x6C, kind, tag] ++ bytesOf body.length ++ body)) (openedPort pi) = { pi with link := l } ∧
    l.selected = true ∧ l.transaction = some .submit ∧ l.voided = false ∧ l.staging = kind :: tag :: hi :: lo :: body ∧
    (word16 hi lo).toNat = body.length := by
  obtain ⟨hi, lo, hbytes, hword⟩ := word16_bytesOf (n := body.length) (by omega)
  have hlist : [0x6C, kind, tag] ++ bytesOf body.length ++ body = 0x6C :: kind :: tag :: hi :: lo :: body := by
    rw [hbytes]
    rfl
  have hfirst := completeByte_first (b := 0x6C) (o := byteOut (openedPort pi).link) (pi := openedPort pi) rfl rfl rfl
  obtain ⟨shifted, hrest⟩ := shiftBytes_submit (kind :: tag :: hi :: lo :: body)
    (pi := completeByte 0x6C (byteOut (openedPort pi).link) (openedPort pi)) (by rw [hfirst]; rfl) (by rw [hfirst]; rfl)
    (by rw [hfirst]; rfl)
  have hstaged := stageAll_whole (kind := kind) (tag := tag) hword h200
  rw [hlist, clockBits_bytes _ rfl rfl]
  change ∃ l hi lo, shiftBytes (kind :: tag :: _) (completeByte 0x6C _ (openedPort pi)) = _ ∧ _
  rw [hrest, hfirst]
  exact ⟨_, hi, lo, rfl, rfl, rfl, rfl, hstaged, hword⟩

/-- A COLLECT of the oldest response clocked whole. -/
theorem clock_collect {pi : PortInterface} {x : Response} {rs : List Response} (hresponses : pi.responses = x :: rs)
    (filler : List Byte) : ∃ l,
    clockBits (bitsOfBytes (0x93 :: filler)) (openedPort pi) = { pi with link := l } ∧
    l.selected = true ∧ l.transaction = some .collect ∧ l.voided = false ∧ l.head = some (responseBytes x) ∧
    l.shifted = statusByte pi :: (List.range' 0 filler.length).map fun i => (responseBytes x).getD i 0 := by
  have hfirst := completeByte_first (b := 0x93) (o := byteOut (openedPort pi).link) (pi := openedPort pi) rfl rfl rfl
  have hhead : chosenHead .collect (openedPort pi) = some (responseBytes x) := by
    simp [chosenHead, openedPort, hresponses]
  have hrest := shiftBytes_collect filler (pi := completeByte 0x93 (byteOut (openedPort pi).link) (openedPort pi)) (n := 0)
    (bytes := responseBytes x) (by rw [hfirst]; rfl) (by rw [hfirst]; rfl) (by rw [hfirst]; rfl) (by rw [hfirst]; rfl)
    (by rw [hfirst]; exact hhead) (by rw [hfirst]; rfl)
  rw [clockBits_bytes _ rfl rfl]
  change ∃ l, shiftBytes filler (completeByte 0x93 _ (openedPort pi)) = _ ∧ _
  rw [hrest, hfirst]
  exact ⟨_, rfl, rfl, rfl, rfl, hhead, rfl⟩

/-- The fall of select and the clocking of a transaction: the link stands clocked, and all else is as it was. -/
theorem run_transaction {p : Port} {s t : State} {tr : Transaction} {sdi : List Bool} {rest : List Instr} {l : Link}
    (hsel : (s.ports.get p).link.selected = false) (hr : s.resetState.lasting = none)
    (hclock : clockBits sdi (openedPort (s.ports.get p)) = { s.ports.get p with link := l }) (htr : l.transaction = some tr)
    (hend : exec (transactionRow tr p .deassert)
      { s with ports := s.ports.set p { s.ports.get p with link := l }, pending := rest } = .next t) :
    core.run 3 { s with
      pending := .selectAssertion p :: transactionRow tr p (.clock sdi) :: transactionRow tr p .deassert :: rest } =
      .next t := by
  refine run_three (exec_open hsel hr) rfl (exec_clock (tr := tr) ?_ ?_) rfl (Eq.trans ?_ hend)
  · rw [PerPort.get_set_self]
    rfl
  · rw [PerPort.get_set_self, hclock, htr]
  · simp only [updPort, PerPort.get_set_self, PerPort.set_set, hclock]

/-- Settles O11: the SUBMIT stages header and body, and its end delivers them. -/
theorem submitTransactionDeliversTheRequest : Obligations.SubmitTransactionDeliversTheRequest := by
  intro p s kind tag body rest hsel hr hroom h200
  obtain ⟨l, hi, lo, hclock, hl, htr, hvoid, hstaging, hword⟩ := clock_submit (s.ports.get p) kind tag h200
  have hdeclared : declaredLength (kind :: tag :: hi :: lo :: body) = body.length := hword
  have hwhole : ¬ FallsShort l.staging := by
    rw [FallsShort, hstaging, hdeclared]
    simp only [List.length_cons]
    omega
  obtain ⟨_, _, haccepted⟩ := submitDeassertionDecidesTheOutcome p
    { s with ports := s.ports.set p { s.ports.get p with link := l }, pending := rest } { s.ports.get p with link := l } _
    (by simp) hl htr rfl
  obtain ⟨t, ht, hstate, _⟩ := haccepted hvoid hwhole hroom hr
  refine ⟨t, run_transaction (tr := .submit) hsel hr hclock htr ht, ?_⟩
  rw [hstate]
  simp only [PerPort.get_set_self, PerPort.set_set, hstaging, hdeclared]
  refine ⟨trivial, trivial, trivial, ?_, fun q hq => PerPort.get_set_ne _ _ hq⟩
  simp

/-- Settles O12: the COLLECT chooses the oldest response, shifts it out whole, and its end removes it. -/
theorem collectTransactionDeliversTheResponse : Obligations.CollectTransactionDeliversTheResponse := by
  intro p s x rs filler rest hsel hr _ hresponses hlen
  obtain ⟨l, hclock, hl, htr, hvoid, hhead, hshifted⟩ := clock_collect hresponses filler
  have hbytes : (responseBytes x).length = 5 + x.body.length := by
    simp [responseBytes, bytesOf, bytes16]
    omega
  obtain ⟨hremoves, _⟩ := deassertionRemovesAWholeEntry p
    { s with ports := s.ports.set p { s.ports.get p with link := l }, pending := rest } { s.ports.get p with link := l } _
    (by simp) hl rfl
  obtain ⟨t, ht, hstate, _⟩ := hremoves htr ⟨_, hhead, hvoid, by rw [hshifted, hbytes]; simp; omega⟩ hr
  refine ⟨t, run_transaction (tr := .collect) hsel hr hclock htr ht, ?_⟩
  rw [hstate]
  simp only [PerPort.get_set_self, PerPort.set_set, hresponses, hshifted, List.tail_cons]
  refine ⟨trivial, trivial, trivial, ?_, trivial, trivial, fun q hq => PerPort.get_set_ne _ _ hq⟩
  rw [map_getD_range' (by omega), hbytes]
  rfl

end Sys2Proof.Machine
end

section
/-! PROOFS. Answers. An admitted request is answered with what its run comes to: said once for every kind. Then the checks (O13, O14, O16)
and the requests that touch no claim and raise no notice: the reads (O38, O45, O46) and CONFIG_OUTPUT (O40). -/

namespace Sys2Proof.Machine
open Sys2Proof Host

/-! ### The answer of a run -/

theorem complete_completes {c : Instr} {p : Port} {r : Request} {s : State} {y : Reply}
    (hexec : exec c s = .next (complete p r y)) (hr : s.resetState.lasting = none) (hkept : ControlKept s y.state) :
    Completes c p r y.status y.body s (complete p r y) :=
  ⟨hexec, complete_answered (by rw [hkept.resetState, hr]) hkept.executor fun q => by
    rw [hkept.ports q]
    exact ⟨rfl, rfl, rfl, rfl⟩⟩

/-- An admitted request is answered with the status and body of its run, and the run's change stands. -/
theorem Admitted.completes {k : Kind} {run : Port → Request → State → Reply} {c : Instr} {p : Port} {r : Request} {s : State}
    {y : Reply} (h : Admitted k p r s) (hexec : exec c s = .next (execute k run s)) (hrun : run p r s = y)
    (hkept : ControlKept s y.state) : Completes c p r y.status y.body s (complete p r y) :=
  complete_completes (by rw [hexec, execute_admitted h, hrun]) h.1.1 hkept

theorem Placed.complete {ns : List Addressed} {s : State} {y : Reply} (h : Placed ns s y.state) (p : Port) (r : Request) :
    Placed ns s (complete p r y) := fun q => by
  obtain ⟨hnotices, hlost⟩ := complete_notices p r y q
  rw [hnotices, hlost]
  exact h q

theorem NoNotice.complete {s : State} {y : Reply} (h : NoNotice s y.state) (p : Port) (r : Request) :
    NoNotice s (complete p r y) := fun q => by
  obtain ⟨hnotices, hlost⟩ := complete_notices p r y q
  rw [hnotices, hlost]
  exact h q

theorem noNotice_of_ports {s t : State} (h : t.ports = s.ports) : NoNotice s t := fun q => by
  rw [h]
  exact ⟨rfl, rfl⟩

theorem complete_onlyAnswered {c : Instr} {p : Port} {r : Request} {s : State} {st : Status} {body : List Byte}
    (he : Executing p r s) (hexec : exec c s = .next (complete p r { status := st, body := body, state := s })) :
    OnlyAnswered st body c p r s :=
  ⟨_, complete_completes hexec he.1 (.refl s), (noNotice_of_ports rfl).complete p r, complete_eq p r _⟩

/-- A run that changes nothing gives an answer alone. -/
theorem Admitted.onlyAnswered {k : Kind} {run : Port → Request → State → Reply} {c : Instr} {p : Port} {r : Request} {s : State}
    {st : Status} {body : List Byte} (h : Admitted k p r s) (hexec : exec c s = .next (execute k run s))
    (hrun : run p r s = { status := st, body := body, state := s }) : OnlyAnswered st body c p r s :=
  complete_onlyAnswered h.1 (by rw [hexec, execute_admitted h, hrun])

/-! ### Fields of a body (R185) -/

section fields
variable {r : Request} {i : Nat}

@[simp] theorem byteOf_num (r : Request) (i : Nat) : byteOf (r.num i) = r.byte i := by
  simp [byteOf, Request.num]

theorem num_eq {b : Byte} : r.num i = b.toNat ↔ r.byte i = b := BitVec.toNat_inj

theorem bytes16_word16 (hi lo : Byte) : bytes16 (word16 hi lo) = [hi, lo] := by
  have hhi : (hi ++ lo).extractLsb' 8 8 = hi := by
    ext i h
    rw [BitVec.getElem_extractLsb', BitVec.getLsbD_append, if_neg (by omega), Nat.add_sub_cancel_left,
      BitVec.getLsbD_eq_getElem h]
  have hlo : (hi ++ lo).extractLsb' 0 8 = lo := by
    ext i h
    rw [BitVec.getElem_extractLsb', BitVec.getLsbD_append, if_pos (by omega), Nat.zero_add, BitVec.getLsbD_eq_getElem h]
  rw [bytes16, word16, hhi, hlo]

theorem bytesOf_num16 (r : Request) (i : Nat) : bytesOf (r.num16 i) = [r.byte i, r.byte (i + 1)] := by
  rw [bytesOf, Request.num16, BitVec.ofNat_toNat, BitVec.setWidth_eq, Request.word, bytes16_word16]

theorem setWithin_false {b : Byte} {n : Nat} : setWithin b n = false ↔ 2 ^ n ≤ b.toNat := by
  simp [setWithin]

theorem setWithin_true {b : Byte} {n : Nat} : setWithin b n = true ↔ b.toNat < 2 ^ n := by
  simp [setWithin]

theorem setByte_eq (a b c : Bool) : setByte a b c = byteOf (a.toNat + 2 * b.toNat + 4 * c.toNat) := by
  revert a b c
  decide

theorem runInRange_false {first count : Nat} :
    runInRange first count = false ↔ 63 < first ∨ count = 0 ∨ 64 < count ∨ 64 < first + count := by
  rw [Bool.eq_false_iff, Ne, runInRange_iff]
  omega

theorem sceneOfNum_val (n : Fin 32) : sceneOfNum n.val = some n := by
  simp [sceneOfNum]

theorem sceneOfNum_none {n : Nat} (h : 31 < n) : sceneOfNum n = none := dif_neg (by omega)

theorem chanOfNum_val (h : Chan) : chanOfNum h.val = some h := by
  simp [chanOfNum]

theorem chanOfNum_none {n : Nat} (h : 63 < n) : chanOfNum n = none := dif_neg (by omega)

theorem chanOfNum_eq_some {n : Nat} {h : Chan} : chanOfNum n = some h ↔ n = h.val := by
  unfold chanOfNum
  split
  · rw [Option.some.injEq, Fin.ext_iff]
  · simp only [reduceCtorEq, false_iff]
    omega

theorem priorityOfNum_val (n : Fin 8) : priorityOfNum n.val = some n := by
  simp [priorityOfNum]

theorem priorityOfNum_none {n : Nat} (h : 7 < n) : priorityOfNum n = none := dif_neg (by omega)

theorem sourceOfCode_code (src : Source) : sourceOfCode src.code = some src := by
  cases src <;> rfl

theorem portOfCode_code (p : Port) : portOfCode (portCode p) = some p := by
  cases p <;> rfl

theorem sourceOfCode_none {b : Byte} (h : 3 < b.toNat) : sourceOfCode b = none := by
  revert b
  decide

theorem portOfCode_none {b : Byte} (h : 2 < b.toNat) : portOfCode b = none := by
  revert b
  decide

theorem lossPolicyOfCode_code (x : LossPolicy) : lossPolicyOfCode x.code = some x := by
  cases x <;> rfl

theorem lossPolicyOfCode_none {b : Byte} (h : 1 < b.toNat) : lossPolicyOfCode b = none := by
  revert b
  decide

theorem widthOfCode_code (x : SlotWidth) : widthOfCode x.code = some x := by
  cases x <;> rfl

theorem widthOfCode_none {b : Byte} (h : 1 < b.toNat) : widthOfCode b = none := by
  revert b
  decide

end fields

/-! ### O13 and O14: the early checks (R169, R170) -/

/-- A request that fails an early check, whatever its kind. -/
theorem exec_refused {k : Kind} {p : Port} {r : Request} {s : State} {st : Status} (he : Executing p r s)
    (hk : r.kind = k.code) (h : earlyRefusal k p r s = some st) :
    exec (commandOfKind k) s = .next (complete p r (refuse st s)) := by
  cases k with
  | restart =>
    change Outcome.next (restartEvent s) = _
    simp only [restartEvent, (inExecution_iff s p r).2 he, hk, h, if_true]
  | _ => exact congrArg Outcome.next (execute_refused he hk h _)

/-- Settles O13: the three checks in their order, and the four tables read off. -/
theorem earlyChecksRefuseInOrder : Obligations.EarlyChecksRefuseInOrder := by
  refine ⟨fun k p r s he hk => ?_, fun k n r hkn => ?_, fun r => ?_, fun k x => ?_, fun k st => ?_⟩
  · have hrefused : ∀ st, earlyRefusal k p r s = some st → RefusedWith st (commandOfKind k) p r s := fun st h =>
      complete_onlyAnswered he (exec_refused he hk h)
    refine ⟨fun hl => hrefused _ ?_, fun hl hg => hrefused _ ?_, fun hl hg st hst => hrefused st ?_⟩
    · simp [earlyRefusal, hl]
    · simp [earlyRefusal, hl, hg]
    · simp [earlyRefusal, hl, hg, hst]
  · simp only [List.mem_cons, Prod.mk.injEq, List.not_mem_nil, or_false] at hkn
    cases k <;> simp at hkn <;> simp [lengthFits, hkn]
  · simp [lengthFits]
  · cases k <;> rfl
  · cases k <;> cases st <;> rfl

theorem kindOfCode_none {b : Byte} (h : ∀ k ∈ allKinds, k.code ≠ b) : kindOfCode b = none := by
  simpa [kindOfCode] using h

/-- Settles O14: no row is a request of such a kind but UNKNOWN_KIND, which refuses it. -/
theorem unknownKindsAreRefused : Obligations.UnknownKindsAreRefused := by
  intro p r s he hkind
  have hnone : kindOfCode r.kind = none := kindOfCode_none fun k _ hk => hkind (hk ▸ by cases k <;> decide)
  refine ⟨by rw [commandOfRequest, hnone], complete_onlyAnswered he ?_⟩
  change Outcome.next (unknownKind s) = _
  simp only [unknownKind, (inExecution_iff s p r).2 he, hnone]
  rfl

/-! ### O16: fields out of their ranges (R169) -/

section range
variable {p : Port} {r : Request} {s : State}

theorem runAttach_range (h : 6000 < r.num16 0 ∨ 1 < r.num 2 ∨ 7 < r.num 5) : runAttach p r s = refuse .range s := by
  unfold runAttach
  split
  · rfl
  · next policy hpolicy =>
    have hcode : ¬ 1 < r.num 2 := fun hlt => by
      rw [lossPolicyOfCode_none hlt] at hpolicy
      cases hpolicy
    rw [if_pos]
    rw [setWithin_false]
    change _ ∨ 8 ≤ r.num 5
    omega

theorem runSetLevels_range (h : 63 < r.num 0 ∨ r.num 1 = 0 ∨ 64 < r.num 1 ∨ 64 < r.num 0 + r.num 1 ∨ 7 < r.num 4) :
    runSetLevels p r s = refuse .range s := by
  refine if_pos ?_
  rw [runInRange_false, setWithin_false]
  change _ ∨ 8 ≤ r.num 4
  omega

theorem runRelease_range (h : 63 < r.num 0 ∨ r.num 1 = 0 ∨ 64 < r.num 1 ∨ 64 < r.num 0 + r.num 1 ∨ 1 < r.num 4) :
    runRelease p r s = refuse .range s := by
  refine if_pos ?_
  rw [runInRange_false, setWithin_false]
  change _ ∨ 2 ≤ r.num 4
  omega

theorem runReleaseAll_range (h : 1 < r.num 2) : runReleaseAll p r s = refuse .range s :=
  if_pos (setWithin_false.2 h)

theorem runRecall_range (h : 31 < r.num 0 ∨ 15 < r.num 1) : runRecall p r s = refuse .range s := by
  unfold runRecall
  dsimp only
  split
  · rfl
  · next n hn =>
    have hnum : ¬ 31 < r.num 0 := fun hlt => by
      rw [sceneOfNum_none hlt] at hn
      cases hn
    exact if_pos (setWithin_false.2 (h.resolve_left hnum))

/-- The entries of a DEFINE_SCENE are read off the body, in order (R104). -/
theorem parseEntries_entries {es : List (Chan × Level)} {i k : Nat} {after : Option Nat}
    (h : parseEntries r i after k = some es) {j : Nat} {e : Chan × Level} (he : es[j]? = some e) :
    r.num (i + 3 * j) = e.1.val ∧ r.word (i + 3 * j + 1) = e.2 := by
  induction k generalizing i after es j with
  | zero =>
    obtain rfl : [] = es := by simpa [parseEntries] using h
    cases he
  | succ k ih =>
    unfold parseEntries at h
    split at h
    · cases h
    · next c hc =>
      split at h
      · obtain ⟨rest, hrest, rfl⟩ := Option.map_eq_some_iff.1 h
        cases j with
        | zero =>
          obtain rfl : (c, r.word (i + 1)) = e := by simpa using he
          exact ⟨chanOfNum_eq_some.1 hc, rfl⟩
        | succ j =>
          have := ih hrest (j := j) (by simpa using he)
          rwa [show i + 3 + 3 * j = i + 3 * (j + 1) by omega] at this
      · cases h

theorem parseEntries_range (h : ∃ i, i < r.num 3 ∧ (63 < r.num (4 + 3 * i) ∨ (1 ≤ i ∧ r.num (4 + 3 * i) ≤ r.num (4 + 3 * (i - 1))))) :
    parseEntries r 4 none (r.num 3) = none := by
  obtain ⟨i, hi, hbad⟩ := h
  rw [Option.eq_none_iff_forall_ne_some]
  intro es hes
  obtain ⟨hlen, hascending, _⟩ := parseEntries_ascending hes
  have hentry : ∀ (j : Nat) (hj : j < es.length), r.num (4 + 3 * j) = es[j].1.val := fun j hj =>
    (parseEntries_entries hes (List.getElem?_eq_getElem hj)).1
  rcases hbad with hbig | ⟨hone, hle⟩
  · have hchannel := es[i].1.isLt
    rw [hentry i (by omega)] at hbig
    omega
  · have hlt := List.pairwise_iff_getElem.1 hascending (i - 1) i (by omega) (by omega) (by omega)
    rw [hentry i (by omega), hentry (i - 1) (by omega)] at hle
    exact absurd hlt (not_lt.2 hle)

theorem runDefineScene_range (h : 31 < r.num 0 ∨ r.num 3 = 0 ∨ 64 < r.num 3 ∨
    ∃ i, i < r.num 3 ∧ (63 < r.num (4 + 3 * i) ∨ (1 ≤ i ∧ r.num (4 + 3 * i) ≤ r.num (4 + 3 * (i - 1))))) :
    runDefineScene p r s = refuse .range s := by
  unfold runDefineScene
  split
  · rfl
  · next n hn =>
    have hnum : ¬ 31 < r.num 0 := fun hlt => by
      rw [sceneOfNum_none hlt] at hn
      cases hn
    split
    · rfl
    · next hcount =>
      obtain ⟨hzero, hmany⟩ := not_or.1 hcount
      rw [parseEntries_range (((h.resolve_left hnum).resolve_left hzero).resolve_left hmany)]

theorem runEraseScene_range (h : 31 < r.num 0) : runEraseScene p r s = refuse .range s := by
  rw [runEraseScene, sceneOfNum_none h]

theorem runCaptureScene_range (h : 31 < r.num 0 ∨ 63 < r.num 1 ∨ r.num 2 = 0 ∨ 64 < r.num 2 ∨ 64 < r.num 1 + r.num 2) :
    runCaptureScene p r s = refuse .range s := by
  unfold runCaptureScene
  split
  · rfl
  · next n hn =>
    have hnum : ¬ 31 < r.num 0 := fun hlt => by
      rw [sceneOfNum_none hlt] at hn
      cases hn
    exact if_pos (runInRange_false.2 (h.resolve_left hnum))

theorem runReadScene_range (h : 31 < r.num 0) : runReadScene p r s = refuse .range s := by
  rw [runReadScene, sceneOfNum_none h]

theorem runReadChannel_range (h : 63 < r.num 0) : runReadChannel p r s = refuse .range s := by
  rw [runReadChannel, chanOfNum_none h]

theorem runReadLevels_range (h : 63 < r.num 0 ∨ r.num 1 = 0 ∨ 64 < r.num 1 ∨ 64 < r.num 0 + r.num 1 ∨ 1 < r.num 2) :
    runReadLevels p r s = refuse .range s := by
  refine if_pos ?_
  rw [runInRange_false]
  omega

theorem runReadSource_range (h : 3 < r.num 0) : runReadSource p r s = refuse .range s := by
  rw [runReadSource, sourceOfCode_none h]

theorem runReadStream_range (h : 1 < r.num 0) : runReadStream p r s = refuse .range s := if_pos (setWithin_false.2 h)

theorem runConfigChannels_range (h : 63 < r.num 0 ∨ r.num 1 = 0 ∨ 64 < r.num 1 ∨ 64 < r.num 0 + r.num 1 ∨ 31 < r.num 2 ∨
    ((r.byte 2).getLsbD 0 = true ∧ 1 < r.num 3) ∨ ((r.byte 2).getLsbD 1 = true ∧ 1 < r.num 4) ∨
    ((r.byte 2).getLsbD 2 = true ∧ 1 < r.num 5)) : runConfigChannels p r s = refuse .range s := by
  refine if_pos ?_
  rw [Bool.eq_false_iff]
  simp only [channelsInRange, Ne, Bool.and_eq_true, runInRange_iff, setWithin_true, Bool.or_eq_true, Bool.not_eq_true',
    decide_eq_true_eq]
  rintro ⟨⟨⟨⟨hrun, hmask⟩, h3⟩, h4⟩, h5⟩
  have hmask : r.num 2 < 32 := hmask
  rcases h with h | h | h | h | h | ⟨hbit, h⟩ | ⟨hbit, h⟩ | ⟨hbit, h⟩
  case inr.inr.inr.inr.inr.inl =>
    simp only [hbit, Bool.true_eq_false, false_or] at h3
    omega
  case inr.inr.inr.inr.inr.inr.inl =>
    simp only [hbit, Bool.true_eq_false, false_or] at h4
    omega
  case inr.inr.inr.inr.inr.inr.inr =>
    simp only [hbit, Bool.true_eq_false, false_or] at h5
    omega
  all_goals omega

theorem runConfigSource_range (h : 3 < r.num 0 ∨ 7 < r.num 1) : runConfigSource p r s = refuse .range s := by
  unfold runConfigSource
  split
  · next src n hsrc hn =>
    rcases h with h | h
    · rw [sourceOfCode_none h] at hsrc
      cases hsrc
    · rw [priorityOfNum_none h] at hn
      cases hn
  · rfl

theorem runConfigStream_range (h : r.num 0 = 255 ∨ 63 < r.num 2 ∨ 64 < r.num 3 ∨ 64 < r.num 2 + r.num 3 ∨
    256 < r.num 1 + r.num 3 ∨ 1 < r.num 4 ∨ 1 < r.num 5 ∨ 4095 < r.num16 6 ∨ r.num16 8 < 50 ∨ 2000 < r.num16 8) :
    runConfigStream p r s = refuse .range s := by
  unfold runConfigStream
  split
  · next width policy hwidth hpolicy =>
    have h4 : ¬ 1 < r.num 4 := fun hlt => by
      rw [widthOfCode_none hlt] at hwidth
      cases hwidth
    have h5 : ¬ 1 < r.num 5 := fun hlt => by
      rw [lossPolicyOfCode_none hlt] at hpolicy
      cases hpolicy
    refine if_pos ?_
    rw [Bool.eq_false_iff]
    simp only [streamInRange, Ne, Bool.and_eq_true, decide_eq_true_eq]
    rintro ⟨⟨⟨⟨⟨⟨⟨hid, h2⟩, h3⟩, hwindow⟩, hslots⟩, hdivisor⟩, hlow⟩, hhigh⟩
    have hid : ¬ r.num 0 = 255 := fun h255 => hid (num_eq.1 h255)
    omega
  · rfl

theorem runConfigOutput_range (h : r.num 0 = 0 ∨ 64 < r.num 0 ∨ r.num 1 ∉ [1, 2, 4, 8] ∨ (1 ≤ r.num16 2 ∧ r.num16 2 ≤ 9) ∨
    5000 < r.num16 2) : runConfigOutput p r s = refuse .range s := by
  refine if_pos ?_
  rw [Bool.eq_false_iff]
  simp only [outputInRange, Ne, Bool.and_eq_true, decide_eq_true_eq, Bool.or_eq_true, List.contains_iff_mem]
  rintro ⟨⟨⟨h1, h64⟩, hperiod⟩, hlimit⟩
  rcases h with h | h | h | h | h
  · omega
  · omega
  · exact h hperiod
  · omega
  · omega

theorem runGrant_range (h : 2 < r.num 0 ∨ 7 < r.num 1) : runGrant p r s = refuse .range s := by
  unfold runGrant
  split
  · rfl
  · next target htarget =>
    have hcode : ¬ 2 < r.num 0 := fun hlt => by
      rw [portOfCode_none hlt] at htarget
      cases htarget
    exact if_pos (setWithin_false.2 (h.resolve_left hcode))

end range

/-- Settles O16: kind by kind, the run refuses before it changes anything. -/
theorem fieldsOutOfRangeAreRefused : Obligations.FieldsOutOfRangeAreRefused := by
  intro p r s
  exact ⟨fun ha h => ha.onlyAnswered rfl (runAttach_range h), fun ha h => ha.onlyAnswered rfl (runSetLevels_range h),
    fun ha h => ha.onlyAnswered rfl (runRelease_range h), fun ha h => ha.onlyAnswered rfl (runReleaseAll_range h),
    fun ha h => ha.onlyAnswered rfl (runRecall_range h), fun ha h => ha.onlyAnswered rfl (runDefineScene_range h),
    fun ha h => ha.onlyAnswered rfl (runEraseScene_range h), fun ha h => ha.onlyAnswered rfl (runCaptureScene_range h),
    fun ha h => ha.onlyAnswered rfl (runReadScene_range h), fun ha h => ha.onlyAnswered rfl (runReadChannel_range h),
    fun ha h => ha.onlyAnswered rfl (runReadLevels_range h), fun ha h => ha.onlyAnswered rfl (runReadSource_range h),
    fun ha h => ha.onlyAnswered rfl (runReadStream_range h), fun ha h => ha.onlyAnswered rfl (runConfigChannels_range h),
    fun ha h => ha.onlyAnswered rfl (runConfigSource_range h), fun ha h => ha.onlyAnswered rfl (runConfigStream_range h),
    fun ha h => ha.onlyAnswered rfl (runConfigOutput_range h), fun ha h => ha.onlyAnswered rfl (runGrant_range h),
    fun first count => ⟨runInRange_iff first count, inRun_iff first count⟩⟩

/-! ### Reads (O38, O45, O46) and CONFIG_OUTPUT (O40) -/

theorem sourceReport_port (q : Port) (s : State) : sourceReport (sourceOf q) s =
    [portCode q, (s.sessions.get q).state.code, byteOf (s.sessions.get q).priority.val, rightsByte (s.sessions.get q).rights] ++
      bytesOf (s.sessions.get q).keepalivePeriod ++ bytesOf (s.sessions.get q).keepaliveRemaining ++
      [(s.sessions.get q).lossPolicy.code] ++ bytesOf (s.sessions.get q).lossFade ++
      [subscriptionsByte (s.sessions.get q).subscriptions, byteOf (claimCount s (sourceOf q)),
       boolCode (s.output.holds.get q).flag] := by
  cases q <;> rfl

/-- Settles O45: each of the five runs leaves its state. -/
theorem readsReportAndChangeNothing : Obligations.ReadsReportAndChangeNothing := by
  intro p r s
  refine ⟨fun ha => ha.onlyAnswered rfl rfl, fun ha n hn => ⟨fun hsc => ?_, fun fade es hsc => ?_⟩, fun ha hrun hsel => ?_,
    fun ha h hh => ?_, fun ha q x hq hx => ?_, fun ha h3 => ?_⟩
  · refine ha.onlyAnswered rfl ?_
    rw [runReadScene, hn, sceneOfNum_val]
    simp only [hsc, sceneEntriesOf, sceneDefined, sceneFade]
    rw [← hn, byteOf_num]
    rfl
  · refine ha.onlyAnswered rfl ?_
    rw [runReadScene, hn, sceneOfNum_val]
    simp only [hsc, sceneEntriesOf, sceneDefined, sceneFade]
    rw [← hn, byteOf_num]
    rfl
  · refine ha.onlyAnswered rfl ?_
    have hlevel : ∀ h, selectedLevel (decide (r.num 2 = 1)) s h =
        if r.num 2 = 0 then (s.resolver.resolved.get h).level else s.output.active.get h := fun h => by
      obtain h0 | h1 : r.num 2 = 0 ∨ r.num 2 = 1 := by omega
      · simp [selectedLevel, h0]
      · simp [selectedLevel, h1]
    rw [runReadLevels, if_neg (by rw [hrun]; simpa using hsel)]
    simp only [hlevel]
    rfl
  · refine ha.onlyAnswered rfl ?_
    rw [runReadChannel, hh, chanOfNum_val]
    simp only [channelReport]
    rw [← hh, byteOf_num]
    rfl
  · subst hx
    refine ha.onlyAnswered rfl ?_
    rw [runReadSource, hq, portCode, sourceOfCode_code]
    simp only [sourceReport_port, rightsByte, subscriptionsByte, setByte_eq]
    rfl
  · refine ha.onlyAnswered rfl ?_
    rw [runReadSource, num_eq.1 (h3.trans (by decide : 3 = (Source.code .str).toNat)), sourceOfCode_code]
    rfl

/-- The report of READ_STATUS, its sets written out as numbers (R185). -/
theorem statusReport_eq (p : Port) (s : State) : statusReport p s =
    [byteOf s.store.free, byteOf (claimCount s .cp0 + claimCount s .cp1 + claimCount s .cp2), byteOf (claimCount s .str),
        byteOf s.store.reservedUnused] ++ bytesOf s.scenes.free ++
      [s.sessions.cp0.state.code, s.sessions.cp1.state.code, s.sessions.cp2.state.code, s.stream.record.state.code,
        s.output.generator.code,
        byteOf (s.output.holds.cp0.flag.toNat + 2 * s.output.holds.cp1.flag.toNat + 4 * s.output.holds.cp2.flag.toNat),
        byteOf s.output.prescaleHeld, byteOf s.fades.period] ++ bytesOf s.output.holdLimit ++
      [byteOf ((s.sessions.get p).rights.config.toNat + 2 * (s.sessions.get p).rights.claim.toNat +
          4 * (s.sessions.get p).rights.observe.toNat), byteOf (s.ports.get p).lost] := by
  simp only [statusReport, rightsByte, holdFlagsByte, setByte_eq]
  rfl

/-- Settles O46: the report is taken before the port's own count is set to 0. -/
theorem readStatusReportsAndClearsTheLostCount : Obligations.ReadStatusReportsAndClearsTheLostCount := by
  intro p r s ha
  have hrun : runReadStatus p r s = answer _ (updPort p (fun pi => { pi with lost := 0 }) s) :=
    congrArg (answer · _) (statusReport_eq p s)
  have hacts : ControlKept s (runReadStatus p r s).state := runReadStatus_acts.controlKept
  rw [hrun] at hacts
  refine ⟨_, ha.completes rfl hrun hacts, fun q => ?_, complete_eq p r _⟩
  obtain ⟨hnotices, hlost⟩ := complete_notices p r (answer _ (updPort p (fun pi => { pi with lost := 0 }) s)) q
  rw [hnotices, hlost]
  simp only [answer, updPort_ports, PerPort.get_set]
  split
  · next hq => exact ⟨by rw [hq], rfl⟩
  · exact ⟨rfl, rfl⟩

/-- Settles O38: the report is taken before the counters are set to 0. -/
theorem readStreamReportsAndClears : Obligations.ReadStreamReportsAndClears := by
  rintro p r s x k ha hclear rfl rfl
  have hacts : ControlKept s (runReadStream p r s).state := runReadStream_acts.controlKept
  have hbit : (r.byte 0).getLsbD 0 = decide (r.num 0 = 1) := by
    have hsmall : ∀ b : Byte, b.toNat ≤ 1 → b.getLsbD 0 = decide (b.toNat = 1) := by decide
    exact hsmall _ hclear
  have hrun : runReadStream p r s = answer (streamReport s.stream (claimCount s .str))
      { s with stream := if r.num 0 = 1 then { s.stream with counters := ⟨0, 0, 0, 0, 0, 0, 0⟩ } else s.stream } := by
    have hwithin : ¬ setWithin (r.byte 0) 1 = false := by
      rw [setWithin_false]
      exact not_le.2 (Nat.lt_succ_of_le hclear)
    rw [runReadStream, if_neg hwithin, hbit]
    by_cases h1 : r.num 0 = 1
    · simp only [h1, decide_true, if_true]
      rfl
    · simp only [h1, decide_false, Bool.false_eq_true, if_false]
  rw [hrun] at hacts
  exact ⟨_, ha.completes rfl hrun hacts, (noNotice_of_ports rfl).complete p r, complete_eq p r _⟩

/-- Settles O40. -/
theorem configOutputWritesThreeItems : Obligations.ConfigOutputWritesThreeItems := by
  intro p r s ha h1 h64 hperiod hlimit
  have hacts : ControlKept s (runConfigOutput p r s).state := runConfigOutput_acts.controlKept
  have hrange : outputInRange r = true := by
    simp only [outputInRange, Bool.and_eq_true, decide_eq_true_eq, Bool.or_eq_true, List.contains_iff_mem]
    exact ⟨⟨⟨h1, h64⟩, hperiod⟩, hlimit⟩
  have hrun : runConfigOutput p r s = answer ([r.byte 0, byteOf s.output.prescaleApplied, r.byte 1] ++ [r.byte 2, r.byte 3])
      { s with
        output := { s.output with prescaleHeld := r.num 0, holdLimit := r.num16 2 }
        fades := { s.fades with period := r.num 1 } } := by
    rw [runConfigOutput, if_neg (by rw [hrange]; decide)]
    simp only [byteOf_num, bytesOf_num16]
  rw [hrun] at hacts
  exact ⟨_, ha.completes rfl hrun hacts, (noNotice_of_ports rfl).complete p r, complete_eq p r _⟩

end Sys2Proof.Machine
end

section
/-! PROOFS. A change of the claims as a command leaves it (R8 to R10): the lists, the change seen from outside, its notices and those raised
after it. Then the sessions (O17 to O21). -/

namespace Sys2Proof.Machine
open Sys2Proof Host

/-! ### States that agree in what a change reads -/

/-- The store, the resolver and the fade engine are the same. -/
structure SameClaims (s t : State) : Prop where
  store : s.store = t.store
  resolver : s.resolver = t.resolver
  fades : s.fades = t.fades

theorem SameClaims.refl (s : State) : SameClaims s s := ⟨rfl, rfl, rfl⟩

section congr
variable {s s' t t' : State} (hs : SameClaims s s') (ht : SameClaims t t')
include hs ht

theorem ChangeTaken.congr (h : ChangeTaken s' t') (hp : priorityOf t = priorityOf t') : ChangeTaken s t := by
  obtain ⟨⟨hconfig, hkept, hanew⟩, htimer, ⟨hcounts, hentries, hreserved⟩⟩ := h
  refine ⟨⟨?_, ?_, ?_⟩, ?_, ⟨?_, ?_, ?_⟩⟩ <;>
    simpa only [ListSame, TimerStarted, claimCount, hs.store, hs.resolver, hs.fades, ht.store, ht.resolver, ht.fades, hp]

theorem changeLeadNotices_congr : changeLeadNotices s t = changeLeadNotices s' t' := by
  simp only [changeLeadNotices, hs.store, hs.resolver, ht.store, ht.resolver]

end congr

theorem Placed.congr {ns : List Addressed} {s s' t t' : State} (h : Placed ns s' t') (hs : s.ports = s'.ports)
    (ht : t.ports = t'.ports) : Placed ns s t := by
  unfold Placed
  rw [hs, ht]
  exact h

theorem releasedLists_congr {s u : State} (h : SameClaims s u) (hp : priorityOf u = priorityOf s) (src : Source) (o : FadeOrder)
    (on : Chan → Bool) : releasedLists src o on u = releasedLists src o on s := by
  unfold releasedLists
  rw [hp, h.store, h.resolver]

/-! ### The entries that cover the new claims (R6) -/

/-- The pool's entries cover the claims of the lists: a change to them creates no claim without an entry. -/
structure Covered (lists : Vector (List Claim) 64) (st : ClaimStore) : Prop where
  ports : cpCount lists ≤ st.free + cpClaims st.counts
  stream : countClaims lists .str ≤ st.reservedUnused + st.counts.str

theorem PoolSound.covered {lists : Vector (List Claim) 64} {s : State} (hs : PoolSound s)
    (hspace : cpCount lists ≤ cpCount s.store.lists + s.store.free)
    (hwindow : ∀ h, holds .str (lists.get h) = true → inRun s.stream.record.first s.stream.record.count h = true) :
    Covered lists s.store := by
  have hcp := hs.cpClaims_eq
  have hstr := countClaims_str_le hs.fits hwindow
  have hreserved := hs.reserved
  exact ⟨by omega, by omega⟩

theorem PoolSound.covered_of_fewer {lists : Vector (List Claim) 64} {s : State} (hs : PoolSound s)
    (h : ∀ c x, holds x (lists.get c) = true → holds x (s.store.lists.get c) = true) : Covered lists s.store :=
  hs.covered ((cpCount_mono fun c x _ => h c x).trans (Nat.le_add_right ..)) fun c hc => hs.window c (h c _ hc)

theorem PoolSound.covered_releasedLists {s : State} (hs : PoolSound s) (src : Source) (o : FadeOrder) (on : Chan → Bool) :
    Covered (releasedLists src o on s) s.store := hs.covered_of_fewer fun _ _ => holds_releasedLists

/-! ### A change of the claims, seen from the command -/

/-- A change of the claims and its notices touch the notice queues, the store, the resolver and the step timer alone. -/
def OnlyClaims (u v : State) : Prop :=
  v = { u with ports := v.ports, store := v.store, resolver := v.resolver, fades := v.fades }

/-- What a command leaves that has taken the change to `lists` and has then raised `ns`; `s` is the state it found. -/
structure Changed (lists : Vector (List Claim) 64) (ns : List Addressed) (s t : State) : Prop where
  store : t.store = storeWith lists s.store
  taken : ChangeTaken s t
  placed : Placed (changeLeadNotices s t ++ ns) s t

section Changed
variable {lists : Vector (List Claim) 64} {ns : List Addressed} {s t : State} (h : Changed lists ns s t)
include h

theorem Changed.lists_eq : t.store.lists = lists := by rw [h.store, storeWith_lists]

theorem Changed.claimOn (src : Source) (c : Chan) : claimOn t src c = findClaim src (lists.get c) := by
  rw [Machine.claimOn, h.lists_eq]

theorem Changed.transfer {t' : State} (hsame : SameClaims t' t) (hports : ∀ ns, Placed ns s t → Placed ns s t')
    (hp : priorityOf t' = priorityOf t) : Changed lists ns s t' where
  store := hsame.store.trans h.store
  taken := h.taken.congr (.refl s) hsame hp
  placed := by
    rw [changeLeadNotices_congr (.refl s) hsame]
    exact hports _ h.placed

end Changed

theorem complete_priority (p : Port) (r : Request) (y : Reply) : priorityOf (complete p r y) = priorityOf y.state :=
  priorityOf_congr (fun q => by rw [complete_sessions]) (by rw [complete_stream])

theorem complete_sameClaims (p : Port) (r : Request) (y : Reply) : SameClaims (complete p r y) y.state :=
  ⟨complete_store .., complete_resolver .., complete_fades ..⟩

theorem Changed.complete {lists : Vector (List Claim) 64} {ns : List Addressed} {s : State} {y : Reply}
    (h : Changed lists ns s y.state) (p : Port) (r : Request) : Changed lists ns s (complete p r y) :=
  h.transfer (complete_sameClaims p r y) (fun _ hplaced => hplaced.complete p r) (complete_priority p r y)

theorem OnlyClaims.complete {u : State} {y : Reply} (h : OnlyClaims u y.state) (p : Port) (r : Request) :
    complete p r y = { u with
      ports := (complete p r y).ports
      executor := (complete p r y).executor
      store := (complete p r y).store
      resolver := (complete p r y).resolver
      fades := (complete p r y).fades } := by
  obtain ⟨hstore, hresolver, hfades⟩ := complete_sameClaims p r y
  rw [hstore, hresolver, hfades]
  conv_lhs => rw [complete_eq, h]

section applyChange
variable {lists : Vector (List Claim) 64} {u : State} (hplain : ∀ p, emptiedBy lists u p = false)

theorem changeLeadNotices_applyChange : changeLeadNotices u (applyChange lists noneDone u) = committedNotices lists noneDone u := by
  simp only [changeLeadNotices, committedNotices, applyChange_store, storeWith_lists, applyChange_resolver, noneDone,
    List.nil_append, handedOn, decide_eq_true_eq, ite_not]

include hplain

theorem applyChange_sessions_plain : (applyChange lists noneDone u).sessions = u.sessions := by
  rw [applyChange_plain hplain, commit_state]
  rfl

theorem onlyClaims_applyChange (ns : List Addressed) : OnlyClaims u (raise ns (applyChange lists noneDone u)) := by
  unfold OnlyClaims
  rw [applyChange_plain hplain, commit_state]
  rfl

theorem raised_applyChange_placed (hq : QueuesBounded u) (ns : List Addressed) :
    Placed (changeLeadNotices u (applyChange lists noneDone u) ++ ns) u (raise ns (applyChange lists noneDone u)) := by
  rw [changeLeadNotices_applyChange, applyChange_plain hplain, ← raise_append, commit_state]
  exact raise_placed _ _ hq

/-- A change that empties no DETACHING source, and notices after it, taken from a state that agrees with the one the command found. -/
theorem changed_applyChange {s : State} (hs : SameClaims s u) (hports : s.ports = u.ports) (hq : QueuesBounded s)
    (hcovered : Covered lists s.store) (ns : List Addressed) : Changed lists ns s (raise ns (applyChange lists noneDone u)) where
  store := by rw [raise_store, applyChange_store, hs.store]
  taken := by
    rw [hs.store] at hcovered
    exact .congr hs (t' := applyChange lists noneDone u) ⟨rfl, rfl, rfl⟩
      (applyChange_taken lists noneDone u hcovered.ports hcovered.stream) rfl
  placed := by
    have hqu : QueuesBounded u := by
      unfold QueuesBounded
      rw [← hports]
      exact hq
    rw [changeLeadNotices_congr hs (t := raise ns (applyChange lists noneDone u)) (t' := applyChange lists noneDone u) ⟨rfl, rfl, rfl⟩]
    exact (raised_applyChange_placed hplain hqu ns).congr hports rfl

end applyChange

/-- What the command of an admitted request leaves that takes the change to `lists` from `u` and then raises `ns`. -/
structure Answers (c : Instr) (p : Port) (r : Request) (body : List Byte) (lists : Vector (List Claim) 64) (ns : List Addressed)
    (s u t : State) : Prop where
  completes : Completes c p r .ok body s t
  changed : Changed lists ns s t
  same : SameClaims t (applyChange lists noneDone u)
  rest : t = { u with ports := t.ports, executor := t.executor, store := t.store, resolver := t.resolver, fades := t.fades }

/-- The answer of a request whose run is such a change. -/
theorem Admitted.changes {k : Kind} {run : Port → Request → State → Reply} {c : Instr} {p : Port} {r : Request} {s u : State}
    {body : List Byte} {lists : Vector (List Claim) 64} {ns : List Addressed} (ha : Admitted k p r s)
    (hexec : exec c s = .next (execute k run s)) (hkept : ControlKept s (run p r s).state)
    (hrun : run p r s = answer body (raise ns (applyChange lists noneDone u))) (hs : SameClaims s u) (hports : s.ports = u.ports)
    (hplain : ∀ q, emptiedBy lists u q = false) (hcovered : Covered lists s.store) (hq : QueuesBounded s) :
    ∃ t, Answers c p r body lists ns s u t := by
  rw [hrun] at hkept
  have hchanged := changed_applyChange hplain hs hports hq hcovered ns
  obtain ⟨hstore, hresolver, hfades⟩ := complete_sameClaims p r (answer body (raise ns (applyChange lists noneDone u)))
  exact ⟨_, ha.completes hexec hrun hkept, hchanged.complete p r (y := answer body _), ⟨hstore, hresolver, hfades⟩,
    (onlyClaims_applyChange hplain ns).complete p r (y := answer body _)⟩

section Answers
variable {c : Instr} {p : Port} {r : Request} {body : List Byte} {lists : Vector (List Claim) 64} {ns : List Addressed}
  {s u t : State} (h : Answers c p r body lists ns s u t)
include h

theorem Answers.sessions : t.sessions = u.sessions := by rw [h.rest]

theorem Answers.stream : t.stream = u.stream := by rw [h.rest]

theorem Answers.priority : priorityOf t = priorityOf u :=
  priorityOf_congr (fun q => by rw [h.sessions]) (by rw [h.stream])

end Answers

/-! ### Releases (R17, R19) -/

/-- A list that a release leaves is as R17 says. -/
theorem releasedOn_channel {src : Source} {o : FadeOrder} {on : Chan → Bool} {s t : State} {c : Chan}
    (hget : t.store.lists.get c = (releasedLists src o on s).get c) : if on c = true then ReleasedAt src o s t c
      else t.store.lists.get c = s.store.lists.get c := by
  rw [releasedLists_get] at hget
  cases hon : on c with
  | false => simpa [hon] using hget
  | true =>
    rw [hon, if_pos rfl] at hget
    simp only [if_true, ReleasedAt, OthersKept, PlacesKept, claimOn, snapshotOn, hget]
    refine ⟨releaseClaim_others .., ?_⟩
    cases hfind : findClaim src (s.store.lists.get c) with
    | none => exact releaseClaim_of_none hfind ..
    | some old => exact ⟨releaseClaim_released hfind .., fun ho => releaseClaim_places ho ..⟩

theorem releasedOn_of_lists {src : Source} {o : FadeOrder} {on : Chan → Bool} {s t : State}
    (h : t.store.lists = releasedLists src o on s) : ReleasedOn src o on s t := fun c => releasedOn_channel (by rw [h])

/-! ### Notices to subscribers (R75, R76) -/

theorem toSubscribers_eq (c : NoticeClass) (n : Notice) (s : State) : toSubscribers c n s = subscribersGet c n s := rfl

theorem subscribersGet_congr {t u : State} (h : t.sessions = u.sessions) (c : NoticeClass) (n : Notice) :
    subscribersGet c n t = subscribersGet c n u := by
  simp only [subscribersGet, h]

theorem sourceStateOf_congr {t u : State} (h : t.sessions = u.sessions) (hl : t.store.lists = u.store.lists) (p : Port) (tag : Byte) :
    sourceStateOf p tag t = sourceStateOf p tag u := by
  simp only [sourceStateOf, h, hl]

theorem sourceStateNotice_eq {s : State} {p : Port} (h : claimCount s (sourceOf p) = countClaims s.store.lists (sourceOf p))
    (tag : Byte) : sourceStateNotice p tag s = sourceStateOf p tag s := by
  simp only [sourceStateNotice, sourceStateOf, h]

theorem applyChange_claimCount (lists : Vector (List Claim) 64) (done : Chan → List Addressed) (u : State) (src : Source) :
    claimCount (applyChange lists done u) src = countClaims (applyChange lists done u).store.lists src := by
  rw [claimCount, applyChange_store, storeWith_counts, storeWith_lists]

end Sys2Proof.Machine
end

section
/-! PROOFS. The Session Table (O17 to O21). A run is written as a change of the source's record, a change of the claims where there is one,
and the notices after it; the layer on changes says the rest. -/

namespace Sys2Proof.Machine
open Sys2Proof Host

/-- SOURCE_STATE after a change, as the state the command leaves shows it (R75). -/
theorem toSubscribers_sourceState {w t : State} {p : Port}
    (hcount : claimCount w (sourceOf p) = countClaims w.store.lists (sourceOf p)) (hsessions : t.sessions = w.sessions)
    (hlists : t.store.lists = w.store.lists) (tag : Byte) :
    toSubscribers .sources (sourceStateNotice p tag w) w = subscribersGet .sources (sourceStateOf p tag t) t := by
  rw [toSubscribers_eq, sourceStateNotice_eq hcount, subscribersGet_congr hsessions, sourceStateOf_congr hsessions hlists]

theorem heldOn_everywhere (src : Source) (s : State) : heldOn src everywhere s = countClaims s.store.lists src := rfl

/-! ### ATTACH -/

/-- The source record after an ATTACH (R65, R66). -/
def attachedRecord (r : Request) (policy : LossPolicy) (rec : SourceRecord) : SourceRecord :=
  restartKeepalive { rec with
    state := .attached, keepalivePeriod := r.num16 0, lossPolicy := policy, lossFade := r.num16 3,
    subscriptions := subscriptionsOfByte (r.byte 5) }

theorem runAttach_eq {p : Port} {r : Request} {s : State} {policy : LossPolicy} (hperiod : r.num16 0 ≤ 6000)
    (hpolicy : r.byte 2 = policy.code) (hsubs : r.num 5 ≤ 7) : runAttach p r s =
    answer [1, byteOf (s.sessions.get p).priority.val, rightsByte (s.sessions.get p).rights, byteOf (claimCount s (sourceOf p))]
      (raise (if (s.sessions.get p).state = .attached then [] else
          toSubscribers .sources (sourceStateNotice p r.tag (updSession p (attachedRecord r policy) s))
            (updSession p (attachedRecord r policy) s))
        (updSession p (attachedRecord r policy) s)) := by
  have hrange : ¬ (6000 < r.num16 0 ∨ setWithin (r.byte 5) 3 = false) := by
    rw [setWithin_false, not_or]
    exact ⟨not_lt.2 hperiod, not_le.2 (Nat.lt_succ_of_le hsubs)⟩
  rw [runAttach, hpolicy, lossPolicyOfCode_code]
  dsimp only
  rw [if_neg hrange]
  by_cases hfound : (s.sessions.get p).state = .attached
  · simp only [hfound, if_true, raise_nil, updSession_sessions, PerPort.get_set]
    rfl
  · simp only [hfound, if_false, raiseSourceState, raise_sessions, updSession_sessions, PerPort.get_set, if_true]
    rfl

/-- Settles O17. -/
theorem attachMakesTheSourcePresent : Obligations.AttachMakesTheSourcePresent := by
  intro p r s policy ha hq hperiod hpolicy hsubs
  have hacts : ControlKept s (runAttach p r s).state := runAttach_acts.controlKept
  have hrun := runAttach_eq (p := p) (s := s) hperiod hpolicy hsubs
  rw [hrun] at hacts
  refine ⟨_, ha.completes rfl hrun hacts, complete_eq p r _, ?_⟩
  have hsame : ∀ ns, Placed ns s (raise ns (updSession p (attachedRecord r policy) s)) := fun ns =>
    (raise_placed ns (updSession p (attachedRecord r policy) s) hq).congr rfl rfl
  convert (hsame _).complete p r (y := answer _ _) using 2
  rw [toSubscribers_eq, subscribersGet_congr (complete_sessions p r _)]
  simp only [sourceStateOf, complete_sessions]
  rfl

/-! ### DETACH and the lapse -/

/-- SOURCE_STATE of a DETACH, by the state it leaves (R67, R75). -/
def detachNotices (p : Port) (r : Request) (found : SessionState) (new : SessionState) (w : State) : List Addressed :=
  if found = new then [] else toSubscribers .sources (sourceStateNotice p r.tag w) w

/-- The release of a DETACH (R67). -/
abbrev detachOrder (r : Request) : FadeOrder := { steps := r.num16 0, tag := r.tag, notify := false }

/-- The session state of a source by the lists a DETACH leaves (R67). -/
abbrev departedState (p : Port) (lists : Vector (List Claim) 64) : SessionState :=
  if countClaims lists (sourceOf p) = 0 then .detached else .detaching

/-- A DETACH: the record, the release, SOURCE_STATE (R67). -/
theorem runDetach_eq {p : Port} {r : Request} {s w : State} {lists : Vector (List Claim) 64}
    (hlists : lists = releasedLists (sourceOf p) (detachOrder r) everywhere s)
    (hw : w = applyChange lists noneDone (updSession p (departed p lists) (clearHold p s))) : runDetach p r s =
    answer [byteOf (countClaims s.store.lists (sourceOf p)), (departedState p lists).code]
      (raise (detachNotices p r (s.sessions.get p).state (departedState p lists) w) w) := by
  subst hlists hw
  unfold detachNotices
  by_cases hfound : (s.sessions.get p).state = departedState p (releasedLists (sourceOf p) (detachOrder r) everywhere s)
  · rw [if_pos hfound, raise_nil]
    exact congrArg (answer _) (if_pos hfound)
  · rw [if_neg hfound]
    exact congrArg (answer _) (if_neg hfound)

/-- A release by one source empties no other source (R68). -/
theorem emptiedBy_releasedLists {s u : State} (hu : PoolSound u) (hlists : u.store.lists = s.store.lists) {src : Source}
    (o : FadeOrder) (on : Chan → Bool) {q : Port} (hq : sourceOf q ≠ src) : emptiedBy (releasedLists src o on s) u q = false :=
  emptiedBy_eq_false hu (.inl (hlists ▸ claimsLeft_releasedLists hq o on s))

/-- Settles O18: the source's new state is already in its record when the release is taken, so no emptied report follows. -/
theorem detachReleasesAndLeaves : Obligations.DetachReleasesAndLeaves := by
  intro p r s ha hq hpool
  obtain ⟨lists, hlists⟩ : ∃ lists, lists = releasedLists (sourceOf p) (detachOrder r) everywhere s := ⟨_, rfl⟩
  obtain ⟨u, hu⟩ : ∃ u, u = updSession p (departed p lists) (clearHold p s) := ⟨_, rfl⟩
  have hrun := runDetach_eq hlists (congrArg (applyChange lists noneDone) hu)
  have hplain : ∀ q, emptiedBy lists u q = false := fun q => by
    by_cases hqp : q = p
    · rw [hqp, hu]
      exact emptiedBy_departed p lists s
    · rw [hlists]
      exact emptiedBy_releasedLists (by rw [hu]; exact hpool.congr rfl ⟨rfl, rfl⟩) (by rw [hu]; rfl) _ _
        fun h => hqp (sourceOf_injective h)
  obtain ⟨t, ht⟩ := ha.changes (c := .detach) rfl runDetach_acts.controlKept hrun (by rw [hu]; exact ⟨rfl, rfl, rfl⟩)
    (by rw [hu]; rfl) hplain (by rw [hlists]; exact hpool.covered_releasedLists ..) hq
  refine ⟨t, _, ht.completes, by rw [ht.changed.lists_eq], releasedOn_of_lists (ht.changed.lists_eq.trans hlists),
    ht.changed.taken, ?_, ?_⟩
  · have h := ht.rest
    rw [hu] at h
    exact h
  · have hplaced := ht.changed.placed
    rw [detachNotices, toSubscribers_sourceState (applyChange_claimCount ..)
      (ht.sessions.trans (applyChange_sessions_plain hplain).symm) (by rw [ht.same.store])] at hplaced
    exact hplaced

/-! ### The lapse -/

/-- The source record after a lapse (R71). -/
def lapsedRecord (rec : SourceRecord) : SourceRecord := { rec with state := .lapsed, keepaliveRemaining := 0 }

/-- SOURCE_STATE of a lapse goes to the source's own port too (R71, R75). -/
def lapseNotices (p : Port) (u : State) : List Addressed :=
  (allPorts.filter fun q => q == p || receives .sources u q).map fun q => (q, sourceStateNotice p 0 u)

theorem lapseNotices_eq {p : Port} {s u t : State} (hother : ∀ q, q ≠ p → u.sessions.get q = s.sessions.get q)
    (hcount : claimCount u (sourceOf p) = countClaims u.store.lists (sourceOf p)) (hsessions : t.sessions = u.sessions)
    (hlists : t.store.lists = u.store.lists) : lapseNotices p u = (allPorts.filter fun q => q == p ||
      ((s.sessions.get q).subscriptions.sources && (s.sessions.get q).rights.observe)).map fun q => (q, sourceStateOf p 0 t) := by
  rw [lapseNotices, sourceStateNotice_eq hcount, ← sourceStateOf_congr hsessions hlists]
  congr 2
  funext q
  by_cases hqp : q = p
  · simp [hqp]
  · rw [receives, hother q hqp]
    rfl

section lapse
variable {p : Port} {s : State} (hr : s.resetState.lasting = none) (hruns : keepaliveRuns (s.sessions.get p) = true)
include hr hruns

theorem lapse_taken : ¬ (resetLasts s = true ∨ keepaliveRuns (s.sessions.get p) = false) := by
  rw [resetLasts_of_none hr, hruns]
  decide

theorem lapseEvent_hold (hpolicy : (s.sessions.get p).lossPolicy = .hold) : lapseEvent p s =
    raise (lapseNotices p (updSession p lapsedRecord (clearHold p s))) (updSession p lapsedRecord (clearHold p s)) := by
  rw [lapseEvent, if_neg (lapse_taken hr hruns), hpolicy]
  rfl

theorem lapseEvent_release (hpolicy : (s.sessions.get p).lossPolicy = .release) {lists : Vector (List Claim) 64}
    (hlists : lists = releasedLists (sourceOf p) ⟨(s.sessions.get p).lossFade, 0, false⟩ everywhere s) : lapseEvent p s =
    raise (lapseNotices p (applyChange lists noneDone (updSession p lapsedRecord (clearHold p s))))
      (applyChange lists noneDone (updSession p lapsedRecord (clearHold p s))) := by
  have hcongr := releasedLists_congr (s := s) (u := updSession p lapsedRecord (clearHold p s)) ⟨rfl, rfl, rfl⟩
    (updSession_priority (f := lapsedRecord) (fun _ => rfl) p (clearHold p s)) (sourceOf p)
    ⟨(s.sessions.get p).lossFade, 0, false⟩ everywhere
  rw [hlists, ← hcongr, lapseEvent, if_neg (lapse_taken hr hruns), hpolicy]
  rfl

end lapse

theorem changeLeadNotices_self {s t : State} (h : t.store = s.store) : changeLeadNotices s t = [] := by
  simp [changeLeadNotices, h]

theorem lapsed_other {p q : Port} {s : State} (hq : q ≠ p) :
    (updSession p lapsedRecord (clearHold p s)).sessions.get q = s.sessions.get q := by
  rw [updSession_sessions, PerPort.get_set, if_neg hq, clearHold_sessions]

/-- Settles O19: a source that has just lapsed is not DETACHING, so its release reports nothing more. -/
theorem lapseActsByTheLossPolicy : Obligations.LapseActsByTheLossPolicy := by
  intro p s
  refine ⟨fun h => ?_, fun hr hruns hq hpool => ?_⟩
  · refine congrArg Outcome.next (if_pos (h.imp_left resetLasts_of_lasting))
  · have hacts : ControlKept s (lapseEvent p s) := (lapseEvent_acts s p).controlKept
    cases hpolicy : (s.sessions.get p).lossPolicy with
    | hold =>
      obtain ⟨ns, hns⟩ : ∃ ns, ns = lapseNotices p (updSession p lapsedRecord (clearHold p s)) := ⟨_, rfl⟩
      have hlapse := lapseEvent_hold hr hruns hpolicy
      rw [← hns] at hlapse
      rw [lapseNotices_eq (t := lapseEvent p s) (s := s) (fun q hqp => lapsed_other hqp) (hpool.counts _) (by rw [hlapse]; rfl)
        (by rw [hlapse]; rfl)] at hns
      have hstore : (lapseEvent p s).store = s.store := by rw [hlapse]; rfl
      refine ⟨lapseEvent p s, rfl, ?_, hacts.ports, ⟨hstore, by rw [hlapse]; rfl, by rw [hlapse]; rfl⟩, ?_⟩
      · rw [hlapse]
        rfl
      · rw [changeLeadNotices_self hstore, List.nil_append, ← hns, hlapse]
        exact (raise_placed ns (updSession p lapsedRecord (clearHold p s)) hq).congr rfl rfl
    | release =>
      obtain ⟨lists, hlists⟩ : ∃ lists, lists =
        releasedLists (sourceOf p) ⟨(s.sessions.get p).lossFade, 0, false⟩ everywhere s := ⟨_, rfl⟩
      obtain ⟨u, hu⟩ : ∃ u, u = updSession p lapsedRecord (clearHold p s) := ⟨_, rfl⟩
      have hlapse := lapseEvent_release hr hruns hpolicy hlists
      rw [← hu] at hlapse
      have hplain : ∀ q, emptiedBy lists u q = false := fun q => by
        by_cases hqp : q = p
        · refine emptiedBy_eq_false (by rw [hu]; exact hpool.congr rfl ⟨rfl, rfl⟩) (.inr ?_)
          rw [hu, hqp, updSession_sessions, PerPort.get_set, if_pos rfl]
          simp [Present, lapsedRecord]
        · rw [hlists]
          exact emptiedBy_releasedLists (by rw [hu]; exact hpool.congr rfl ⟨rfl, rfl⟩) (by rw [hu]; rfl) _ _
            fun h => hqp (sourceOf_injective h)
      have hsessions := applyChange_sessions_plain hplain
      have hchanged := changed_applyChange hplain (by rw [hu]; exact ⟨rfl, rfl, rfl⟩) (by rw [hu]; rfl) hq
        (by rw [hlists]; exact hpool.covered_releasedLists ..) (lapseNotices p (applyChange lists noneDone u))
      have honly := onlyClaims_applyChange hplain (lapseNotices p (applyChange lists noneDone u))
      rw [← hlapse] at hchanged honly
      refine ⟨lapseEvent p s, rfl, ?_, hacts.ports, ⟨releasedOn_of_lists (hchanged.lists_eq.trans hlists), hchanged.taken⟩, ?_⟩
      · rw [hu] at honly
        exact honly
      · have hplaced := hchanged.placed
        rw [lapseNotices_eq (t := lapseEvent p s) (s := s) (fun q hqp => by rw [hsessions, hu, lapsed_other hqp])
          (applyChange_claimCount ..) (by rw [hlapse]; rfl) (by rw [hlapse]; rfl)] at hplaced
        exact hplaced

/-! ### GRANT -/

theorem configHolders_eq (t : PerPort SourceRecord) : configHolders t = allPorts.countP fun q => (t.get q).rights.config := by
  simp only [configHolders, allPorts, List.countP_cons, List.countP_nil, PerPort.get]
  cases t.cp0.rights.config <;> cases t.cp1.rights.config <;> cases t.cp2.rights.config <;> rfl

theorem rightsByte_rightsOfByte {b : Byte} (h : b.toNat ≤ 7) : rightsByte (rightsOfByte b) = b := by
  revert b
  decide

/-- Some port holds CONFIG after the target's rights are written (R78). -/
theorem configHolders_granted {target : Port} {s : State} {x : Rights} :
    configHolders (updSession target (fun rec => { rec with rights := x }) s).sessions ≠ 0 ↔
      x.config = true ∨ ∃ q, q ≠ target ∧ (s.sessions.get q).rights.config = true := by
  rw [configHolders_pos]
  constructor
  · rintro ⟨q, hq⟩
    rw [updSession_sessions, PerPort.get_set] at hq
    by_cases hqt : q = target
    · rw [if_pos hqt] at hq
      exact .inl hq
    · rw [if_neg hqt] at hq
      exact .inr ⟨q, hqt, hq⟩
  · rintro (hx | ⟨q, hqt, hq⟩)
    · exact ⟨target, by rw [updSession_sessions, PerPort.get_set, if_pos rfl]; exact hx⟩
    · exact ⟨q, by rw [updSession_sessions, PerPort.get_set, if_neg hqt]; exact hq⟩

/-- The state after the target's rights are written (R78). -/
abbrev grantedTo (target : Port) (r : Request) (s : State) : State :=
  updSession target (fun rec => { rec with rights := rightsOfByte (r.byte 1) }) s

theorem runGrant_eq {p target : Port} {r : Request} {s : State} (htarget : r.byte 0 = portCode target) (hset : r.num 1 ≤ 7) :
    runGrant p r s =
      if configHolders (grantedTo target r s).sessions = 0 then refuse .lastConfig s
      else answer [r.byte 1, byteOf (configHolders (grantedTo target r s).sessions)] (grantedTo target r s) := by
  have hwithin : ¬ setWithin (r.byte 1) 3 = false := by
    rw [setWithin_false]
    exact not_le.2 (Nat.lt_succ_of_le hset)
  have hrights : rightsByte ((grantedTo target r s).sessions.get target).rights = r.byte 1 := by
    rw [updSession_sessions, PerPort.get_set, if_pos rfl]
    exact rightsByte_rightsOfByte hset
  rw [runGrant, htarget, portOfCode_code]
  dsimp only
  rw [if_neg hwithin, hrights]

/-- Settles O20. -/
theorem grantKeepsAConfigHolder : Obligations.GrantKeepsAConfigHolder := by
  intro p target r s ha htarget hset
  have hrun := runGrant_eq (p := p) (s := s) htarget hset
  refine ⟨fun hnew hothers => ha.onlyAnswered rfl ?_, fun hkeeps => ?_⟩
  · rw [hrun, if_pos]
    · rfl
    · by_contra hne
      obtain hx | ⟨q, hqt, hq⟩ := configHolders_granted.1 hne
      · rw [show (rightsOfByte (r.byte 1)).config = (r.byte 1).getLsbD 0 from rfl, hnew] at hx
        cases hx
      · rw [hothers q hqt] at hq
        cases hq
  · rw [if_neg (configHolders_granted.2 hkeeps)] at hrun
    have hacts : ControlKept s (runGrant p r s).state := runGrant_acts.controlKept
    rw [hrun] at hacts
    refine ⟨complete p r (answer [r.byte 1, byteOf (configHolders (grantedTo target r s).sessions)] (grantedTo target r s)), ?_,
      (noNotice_of_ports rfl).complete p r, complete_eq p r _⟩
    rw [complete_sessions]
    simp only [answer]
    rw [← configHolders_eq]
    exact ha.completes rfl hrun hacts

/-! ### CONFIG_SOURCE -/

theorem runConfigSource_eq {p : Port} {r : Request} {s : State} {src : Source} {n : Fin 8} (hsrc : r.byte 0 = src.code)
    (hn : r.num 1 = n.val) : runConfigSource p r s =
    answer [byteOf (countClaims s.store.lists src), byteOf (leadersChanged s
        (applyChange (resortedLists src (setPriority src n s)) noneDone (setPriority src n s)))]
      (raise [] (applyChange (resortedLists src (setPriority src n s)) noneDone (setPriority src n s))) := by
  rw [runConfigSource, hsrc, hn, sourceOfCode_code, priorityOfNum_val, raise_nil]
  rfl

/-- The lists after a re-sort, channel by channel (R21, R79). -/
theorem resorted_channel {src : Source} {u : State} {prio : Source → Fin 8} (hl : ∀ h, ListOrdered prio (u.store.lists.get h))
    (hprio : ∀ x, x ≠ src → priorityOf u x = prio x) (h : Chan) :
    removeClaim src ((resortedLists src u).get h) = removeClaim src (u.store.lists.get h) ∧
      (holds src (u.store.lists.get h) = true → AtFrontOfTier (priorityOf u) src ((resortedLists src u).get h)) := by
  cases hc : findClaim src (u.store.lists.get h) with
  | none =>
    rw [resortedLists_get_none u h hc, findClaim_eq_none.1 hc]
    exact ⟨rfl, fun hfalse => by cases hfalse⟩
  | some c =>
    rw [resortedLists_get_some u h hc]
    refine ⟨resort_others hc _, fun _ => ?_⟩
    have hfront := placeClaim_atFront ((hl h).others hprio) c
    rwa [findClaim_source hc] at hfront

/-- A change after a priority was written, seen from before it. -/
theorem eq_of_priority_written {s u t : State}
    (hu : u = { s with
      sessions := u.sessions
      stream := { s.stream with record := { s.stream.record with priority := u.stream.record.priority } } })
    (ht : t = { u with
      ports := t.ports, executor := t.executor, store := t.store, resolver := t.resolver, fades := t.fades }) :
    t = { s with
      ports := t.ports
      executor := t.executor
      store := t.store
      resolver := t.resolver
      fades := t.fades
      sessions := t.sessions
      stream := { s.stream with record := { s.stream.record with priority := t.stream.record.priority } } } := by
  have hsessions : t.sessions = u.sessions := by rw [ht]
  have hstream : t.stream = u.stream := by rw [ht]
  rw [hsessions, hstream]
  conv_lhs => rw [ht, hu]

/-- Settles O21: the re-sort changes no claim, so no source is emptied, and each list was in order but for the source's own claim. -/
theorem configSourceResortsTheClaims : Obligations.ConfigSourceResortsTheClaims := by
  intro p r s src n ha hq hpool hordered hsrc hn
  have hrun := runConfigSource_eq (p := p) (s := s) hsrc hn
  have hu := setPriority_eq src n s
  have hprio := setPriority_priority src n s
  have hsession := setPriority_session src n s
  have hsame : SameClaims s (setPriority src n s) :=
    ⟨(setPriority_store ..).symm, (setPriority_resolver ..).symm, (setPriority_fades ..).symm⟩
  have hports := setPriority_ports src n s
  have hpoolu : PoolSound (setPriority src n s) := hpool.congr (setPriority_store ..) (by rw [setPriority_stream]; exact ⟨rfl, rfl⟩)
  generalize setPriority src n s = u at *
  have hplain : ∀ q, emptiedBy (resortedLists src u) u q = false := fun q =>
    emptiedBy_eq_false hpoolu (.inl (claimsLeft_resortedLists src (sourceOf q) u))
  obtain ⟨t, ht⟩ := ha.changes (c := .configSource) rfl runConfigSource_acts.controlKept hrun hsame hports.symm hplain
    (hsame.store ▸ hpoolu.covered_of_fewer fun h x hh => holds_resortedLists src x u h ▸ hh) hq
  have hlists := ht.changed.lists_eq
  refine ⟨t, ?_, fun x => by rw [ht.priority, hprio], fun h => ?_, ht.changed.taken, fun q => ?_,
    eq_of_priority_written hu ht.rest, ?_⟩
  · rw [ht.same.resolver]
    exact ht.completes
  · obtain ⟨hothers, hfront⟩ := resorted_channel (src := src) (u := u) (prio := priorityOf s)
      (by rw [← hsame.store]; exact (listsOrdered_iff s).1 hordered) (fun x hx => by rw [hprio, if_neg hx]) h
    rw [OthersKept, claimOn, claimOn, hlists, ht.priority, hsame.store]
    exact ⟨hothers, claimsLeft_resortedLists src src u h, hfront⟩
  · rw [ht.sessions]
    exact hsession q
  · have hplaced := ht.changed.placed
    rwa [List.append_nil] at hplaced

end Sys2Proof.Machine
end

section
/-! PROOFS. The claim requests (O22 to O24): one write over the channels that have a level, with a release on others, carries SET_LEVELS
and RECALL, and with no level at all RELEASE and RELEASE_ALL (R13, R14, R17). -/

namespace Sys2Proof.Machine
open Sys2Proof Host

/-! ### Counting the claims a write leaves (R8) -/

/-- Channel by channel equal sums make equal sums of counts. -/
theorem countChannels_balance {f g a b : Chan → Bool}
    (h : ∀ x, (f x).toNat + (b x).toNat = (g x).toNat + (a x).toNat) :
    countChannels f + countChannels b = countChannels g + countChannels a := by
  have hsum : ∀ k : Chan → Bool, countChannels k = (allChannels.map fun x => (k x).toNat).sum := fun k => by
    unfold countChannels
    induction allChannels with
    | nil => rfl
    | cons x l ih => cases hk : k x <;> simp [hk, ih, Nat.add_comm]
  rw [hsum, hsum, hsum, hsum, ← List.sum_map_add, ← List.sum_map_add]
  simp only [h]

theorem countChannels_false : countChannels (fun _ => false) = 0 := countChannels_zero.2 fun _ => rfl

/-- A release keeps a claim on the channel, but with fade 0 (R17). -/
theorem holds_releaseClaim_self (cfg : ChannelConfig) (prio : Source → Fin 8) (src : Source) (o : FadeOrder) (l : List Claim) :
    holds src (releaseClaim cfg prio src o l) = (decide (o.steps ≠ 0) && holds src l) := by
  by_cases ho : o.steps = 0
  · simp [releaseClaim, ho]
  · rw [holds_eq_of_sources (releaseClaim_places ho ..)]
    simp [ho]

/-- The claims that a write's release removes at once (R17). -/
def removedClaims (src : Source) (level : Chan → Option Level) (drop : Chan → Bool) (o : FadeOrder) (s : State) : Nat :=
  if o.steps = 0 then heldOn src (fun h => drop h && !(level h).isSome) s else 0

/-- A write creates the claims its space check counts, and removes those that its release ends at once (R13, R17). -/
theorem countClaims_writtenLists_self (src : Source) (level : Chan → Option Level) (drop : Chan → Bool) (o : FadeOrder)
    (watch : Bool) (s : State) : countClaims (writtenLists src level drop o watch s) src + removedClaims src level drop o s =
      countClaims s.store.lists src + neededClaims src level s := by
  have hremoved : removedClaims src level drop o s = countChannels fun h =>
      decide (o.steps = 0) && (drop h && !(level h).isSome && holds src (s.store.lists.get h)) := by
    by_cases ho : o.steps = 0
    · simp [removedClaims, ho, heldOn]
    · simp [removedClaims, ho, countChannels_false]
  rw [hremoved]
  refine countChannels_balance fun h => ?_
  cases hv : level h with
  | some v =>
    rw [writtenLists_get_some s h hv, writeClaim_holds]
    cases holds src (s.store.lists.get h) <;> simp
  | none =>
    rw [writtenLists_get_none s h hv]
    cases hd : drop h with
    | false => simp
    | true =>
      rw [if_pos rfl, holds_releaseClaim_self]
      by_cases ho : o.steps = 0 <;> simp [ho]

/-- A release is a write of no level. -/
theorem releasedLists_eq_written (src : Source) (o : FadeOrder) (on : Chan → Bool) (watch : Bool) (s : State) :
    releasedLists src o on s = writtenLists src (fun _ => none) on o watch s :=
  ext_get fun h => by rw [releasedLists_get, writtenLists_get_none s h rfl]

theorem cpCount_balance {p : Port} {l m : Vector (List Claim) 64} {a b : Nat}
    (hothers : ∀ q, q ≠ p → countClaims m (sourceOf q) = countClaims l (sourceOf q))
    (h : countClaims m (sourceOf p) + b = countClaims l (sourceOf p) + a) : cpCount m + b = cpCount l + a := by
  have h0 := hothers .cp0
  have h1 := hothers .cp1
  have h2 := hothers .cp2
  unfold cpCount
  cases p <;> simp only [sourceOf, ne_eq, not_true_eq_false, reduceCtorEq, not_false_eq_true, false_implies, true_implies] at h h0 h1 h2 <;>
    omega

/-- The free entries after a change that creates `a` claims of the ports and removes `b` (R6). -/
theorem Changed.free {lists : Vector (List Claim) 64} {ns : List Addressed} {s t : State} (h : Changed lists ns s t)
    (hpool : PoolSound s) {a b : Nat} (hcount : cpCount lists + b = cpCount s.store.lists + a) :
    t.store.free + a = s.store.free + b := by
  have hentries := h.taken.pool.entries
  have hafter : cpClaims t.store.counts = cpCount lists := by
    rw [h.store]
    rfl
  rw [hpool.cpClaims_eq, hafter] at hentries
  omega

/-! ### The change of a write or a release -/

section written
variable {p : Port} {s : State} {level : Chan → Option Level} {drop : Chan → Bool} {o : FadeOrder} {watch : Bool}

/-- A write of a present source empties none that is DETACHING. -/
theorem emptiedBy_writtenLists (hpool : PoolSound s) (hattached : (s.sessions.get p).state = .attached) (q : Port) :
    emptiedBy (writtenLists (sourceOf p) level drop o watch s) s q = false := by
  by_cases hqp : q = p
  · exact emptiedBy_eq_false hpool (.inr (by simp [Present, hqp, hattached]))
  · exact emptiedBy_eq_false hpool (.inl (claimsLeft_writtenLists (fun h => hqp (sourceOf_injective h)) level drop o watch s))

theorem covered_writtenLists (hpool : PoolSound s) (hspace : neededClaims (sourceOf p) level s ≤ s.store.free) :
    Covered (writtenLists (sourceOf p) level drop o watch s) s.store := by
  refine hpool.covered ((cpCount_writtenLists ..).trans (Nat.add_le_add_left hspace _)) fun h hh => ?_
  exact (holds_writtenLists hh).elim (hpool.window h) fun hnew => absurd hnew.1.symm (sourceOf_ne_str p)

theorem cpCount_writtenLists_eq (p : Port) (level : Chan → Option Level) (drop : Chan → Bool) (o : FadeOrder) (watch : Bool)
    (s : State) : cpCount (writtenLists (sourceOf p) level drop o watch s) + removedClaims (sourceOf p) level drop o s =
      cpCount s.store.lists + neededClaims (sourceOf p) level s :=
  cpCount_balance
    (fun _ hqp => (claimsLeft_writtenLists (fun h => hqp (sourceOf_injective h)) level drop o watch s).count)
    (countClaims_writtenLists_self ..)

/-- The lists that a write leaves are as R11 says on a channel with a level. -/
theorem writtenOn_of_lists {t : State} (hlists : t.store.lists = writtenLists (sourceOf p) level drop o watch s)
    (hordered : ListsOrdered s) (hp : priorityOf t = priorityOf s) {h : Chan} {v : Level} (hv : level h = some v) :
    WrittenOn (sourceOf p) v o watch s t h := by
  have hget : t.store.lists.get h = writeClaim (priorityOf s) (sourceOf p) v o watch (s.store.lists.get h) := by
    rw [hlists, writtenLists_get_some s h hv]
  have hl := ((listsOrdered_iff s).1 hordered h).ordered
  rw [WrittenOn, OthersKept, claimOn, claimOn, hget, hp]
  exact ⟨writeClaim_others .., writeClaim_atFront hl .., _, writeClaim_find .., writtenClaim_written ..⟩

/-- A release of a write leaves the channels that it does not name. -/
theorem releasedAt_of_lists {t : State} (hlists : t.store.lists = writtenLists (sourceOf p) level drop o watch s) {h : Chan}
    (hv : level h = none) : if drop h = true then ReleasedAt (sourceOf p) o s t h
      else t.store.lists.get h = s.store.lists.get h := by
  have hget : t.store.lists.get h = (releasedLists (sourceOf p) o drop s).get h := by
    rw [hlists, writtenLists_get_none s h hv, releasedLists_get]
  exact releasedOn_channel hget

end written

/-- What the command of a write leaves: the free entries, each channel, and the rest as the layer on changes has it. -/
structure WriteDone (c : Instr) (p : Port) (r : Request) (body : List Byte) (level : Chan → Option Level) (drop : Chan → Bool)
    (o : FadeOrder) (watch : Bool) (s t : State) : Prop where
  completes : Completes c p r .ok (body ++ [byteOf t.store.free]) s t
  free : t.store.free + neededClaims (sourceOf p) level s = s.store.free + removedClaims (sourceOf p) level drop o s
  lists : t.store.lists = writtenLists (sourceOf p) level drop o watch s
  priority : priorityOf t = priorityOf s
  taken : ChangeTaken s t
  placed : Placed (changeLeadNotices s t) s t
  rest : t = { s with ports := t.ports, executor := t.executor, store := t.store, resolver := t.resolver, fades := t.fades }

/-- The answer of a request whose run is a write that has passed its space check, or a release (R13, R17). -/
theorem Admitted.writes {k : Kind} {run : Port → Request → State → Reply} {c : Instr} {p : Port} {r : Request} {s : State}
    {level : Chan → Option Level} {drop : Chan → Bool} {o : FadeOrder} {watch : Bool} {body : List Byte} (ha : Admitted k p r s)
    (hexec : exec c s = .next (execute k run s)) (hkept : ControlKept s (run p r s).state)
    (hattached : (s.sessions.get p).state = .attached)
    (hrun : run p r s = answer
      (body ++ [byteOf (applyChange (writtenLists (sourceOf p) level drop o watch s) noneDone s).store.free])
      (applyChange (writtenLists (sourceOf p) level drop o watch s) noneDone s))
    (hspace : neededClaims (sourceOf p) level s ≤ s.store.free) (hq : QueuesBounded s) (hpool : PoolSound s) :
    ∃ t, WriteDone c p r body level drop o watch s t := by
  rw [← raise_nil (applyChange (writtenLists (sourceOf p) level drop o watch s) noneDone s)] at hrun
  obtain ⟨t, ht⟩ := ha.changes hexec hkept hrun (.refl s) rfl (emptiedBy_writtenLists hpool hattached)
    (covered_writtenLists hpool hspace) hq
  have hcompletes := ht.completes
  rw [raise_nil, ← ht.same.store] at hcompletes
  have hplaced := ht.changed.placed
  rw [List.append_nil] at hplaced
  exact ⟨t, hcompletes, ht.changed.free hpool (cpCount_writtenLists_eq ..), ht.changed.lists_eq, ht.priority, ht.changed.taken,
    hplaced, ht.rest⟩

/-! ### SET_LEVELS and RECALL -/

section writeChange
variable {k : Kind} {run : Port → Request → State → Reply} {c : Instr} {p : Port} {r : Request} {s : State}
  {level : Chan → Option Level} {drop : Chan → Bool} {o : FadeOrder} {watch isRecall : Bool} (ha : Admitted k p r s)
  (hexec : exec c s = .next (execute k run s)) (hrun : run p r s = writeChange p level drop o watch isRecall s)
include ha hexec hrun

theorem writeChange_refused (hspace : s.store.free < neededClaims (sourceOf p) level s) :
    OnlyAnswered .noClaimSpace [byteOf (neededClaims (sourceOf p) level s), byteOf s.store.free] c p r s := by
  rw [writeChange_eq, if_pos hspace] at hrun
  exact ha.onlyAnswered hexec hrun

theorem writeChange_done (hkept : ControlKept s (run p r s).state) (hattached : (s.sessions.get p).state = .attached)
    (hspace : neededClaims (sourceOf p) level s ≤ s.store.free) (hq : QueuesBounded s) (hpool : PoolSound s) :
    ∃ t, WriteDone c p r ([byteOf (neededClaims (sourceOf p) level s),
        byteOf (heldOn (sourceOf p) (fun h => (level h).isSome) s)] ++
      (if isRecall then [byteOf (heldOn (sourceOf p) (fun h => drop h && !(level h).isSome) s)] else []))
      level drop o watch s t := by
  rw [writeChange_eq, if_neg (not_lt.2 hspace)] at hrun
  exact ha.writes hexec hkept hattached hrun hspace hq hpool

end writeChange

/-- Settles O22. -/
theorem setLevelsWritesTheRun : Obligations.SetLevelsWritesTheRun := by
  rintro p r s run level o needed ha hrange hflags rfl hlevel rfl hneeded
  obtain ⟨named, hnamed⟩ : ∃ named : Chan → Option Level,
    named = fun h => if inRun (r.num 0) (r.num 1) h then some (level h) else none := ⟨_, rfl⟩
  have hsome : ∀ h, (named h).isSome = inRun (r.num 0) (r.num 1) h := fun h => by
    rw [hnamed]
    dsimp only
    split <;> simp_all
  have hclaims : neededClaims (sourceOf p) named s = needed := by
    rw [hneeded]
    exact countChannels_congr fun h => by rw [hsome]
  have hrun : runSetLevels p r s = writeChange p named (fun _ => false) ⟨r.num16 2, r.tag, (r.byte 4).getLsbD 0⟩
      ((r.byte 4).getLsbD 1) false s := by
    have hchecks : ¬ (runInRange (r.num 0) (r.num 1) = false ∨ setWithin (r.byte 4) 3 = false) := by
      rw [setWithin_false, hrange, not_or]
      exact ⟨by decide, not_le.2 (Nat.lt_succ_of_le hflags)⟩
    rw [hnamed, hlevel, runSetLevels]
    exact if_neg hchecks
  have hattached := ha.attached (by decide)
  refine ⟨fun hspace => ?_, fun hspace hq hpool hordered => ?_⟩
  · rw [← hclaims] at hspace ⊢
    exact writeChange_refused ha rfl hrun hspace
  · obtain ⟨t, ht⟩ := writeChange_done (c := .setLevels) ha rfl hrun (runSetLevels_acts hattached).controlKept hattached
      (by rw [hclaims]; exact hspace) hq hpool
    have hfree := ht.free
    rw [removedClaims, heldOn] at hfree
    simp only [Bool.false_and, countChannels_false, ite_self, hclaims] at hfree
    have hupdated : heldOn (sourceOf p) (fun h => (named h).isSome) s = r.num 1 - needed := by
      have hsplit := countChannels_balance (f := inRun (r.num 0) (r.num 1)) (b := fun _ => false)
        (g := fun h => (named h).isSome && holds (sourceOf p) (s.store.lists.get h))
        (a := fun h => inRun (r.num 0) (r.num 1) h && !holds (sourceOf p) (s.store.lists.get h)) fun h => by
          rw [hsome]
          cases inRun (r.num 0) (r.num 1) h <;> cases holds (sourceOf p) (s.store.lists.get h) <;> rfl
      obtain ⟨_, _, _, hfits⟩ := (runInRange_iff _ _).1 hrange
      rw [countChannels_false, countChannels_inRun hfits, ← hneeded] at hsplit
      simp only [heldOn]
      omega
    have hafter : t.store.free = s.store.free - needed := by omega
    have hcompletes := ht.completes
    rw [hclaims, hupdated, hafter] at hcompletes
    refine ⟨t, hcompletes, hafter, fun h => ?_, ht.taken, ht.placed, ht.rest⟩
    cases hh : inRun (r.num 0) (r.num 1) h with
    | true => exact writtenOn_of_lists ht.lists hordered ht.priority (by rw [hnamed]; simp [hh])
    | false => exact releasedAt_of_lists ht.lists (by rw [hnamed]; simp [hh])

/-! ### RELEASE and RELEASE_ALL -/

theorem releaseChange_done {k : Kind} {run : Port → Request → State → Reply} {c : Instr} {p : Port} {r : Request} {s : State}
    {o : FadeOrder} {on : Chan → Bool} (ha : Admitted k p r s) (hexec : exec c s = .next (execute k run s))
    (hrun : run p r s = releaseChange p o on s) (hkept : ControlKept s (run p r s).state)
    (hattached : (s.sessions.get p).state = .attached) (hq : QueuesBounded s) (hpool : PoolSound s) :
    ∃ t, WriteDone c p r [byteOf (heldOn (sourceOf p) on s)] (fun _ => none) on o false s t := by
  rw [releaseChange, releasedLists_eq_written _ _ _ false] at hrun
  refine ha.writes hexec hkept hattached hrun ?_ hq hpool
  rw [neededClaims]
  simp only [Option.isSome_none, Bool.false_and, countChannels_false, Nat.zero_le]

/-- Settles O23: both requests are a release on their channels. -/
theorem releasesReleaseTheirChannels : Obligations.ReleasesReleaseTheirChannels := by
  rintro p r s c on o released free hcase hq hpool rfl rfl
  have hdone : ∃ t, WriteDone c p r [byteOf (heldOn (sourceOf p) on s)] (fun _ => none) on o false s t := by
    rcases hcase with ⟨ha, hrange, hflags, rfl, rfl, rfl⟩ | ⟨ha, hflags, rfl, rfl, rfl⟩
    · have hattached := ha.attached (by decide)
      have hchecks : ¬ (runInRange (r.num 0) (r.num 1) = false ∨ setWithin (r.byte 4) 1 = false) := by
        rw [setWithin_false, hrange, not_or]
        exact ⟨by decide, not_le.2 (Nat.lt_succ_of_le hflags)⟩
      exact releaseChange_done ha rfl (if_neg hchecks) (runRelease_acts hattached).controlKept hattached hq hpool
    · have hattached := ha.attached (by decide)
      have hchecks : ¬ setWithin (r.byte 2) 1 = false := by
        rw [setWithin_false]
        exact not_le.2 (Nat.lt_succ_of_le hflags)
      exact releaseChange_done ha rfl (if_neg hchecks) (runReleaseAll_acts hattached).controlKept hattached hq hpool
  obtain ⟨t, ht⟩ := hdone
  have hfree : t.store.free = if o.steps = 0 then s.store.free + heldOn (sourceOf p) on s else s.store.free := by
    have h := ht.free
    rw [removedClaims, neededClaims] at h
    simp only [Option.isSome_none, Bool.false_and, countChannels_false, Bool.not_false, Bool.and_true] at h
    split at h <;> simp_all
  have hcompletes := ht.completes
  rw [hfree] at hcompletes
  exact ⟨t, hcompletes, hfree, releasedOn_of_lists (ht.lists.trans (releasedLists_eq_written ..).symm), ht.taken, ht.placed, ht.rest⟩

/-! ### RECALL -/

theorem runRecall_eq {p : Port} {r : Request} {s : State} {n : Fin 32} (hn : r.num 0 = n.val) (hflags : r.num 1 ≤ 15) :
    (s.scenes.scenes.get n = .empty → runRecall p r s = refuse .noScene s) ∧
    ∀ fade es, s.scenes.scenes.get n = .defined fade es → runRecall p r s =
      writeChange p (sceneLevel es) (fun _ => (r.byte 1).getLsbD 2)
        ⟨if (r.byte 1).getLsbD 3 = true then r.num16 2 else fade, r.tag, (r.byte 1).getLsbD 0⟩ ((r.byte 1).getLsbD 1) true s := by
  have hwithin : ¬ setWithin (r.byte 1) 4 = false := by
    rw [setWithin_false]
    exact not_le.2 (Nat.lt_succ_of_le hflags)
  refine ⟨fun hsc => ?_, fun fade es hsc => ?_⟩ <;>
    · rw [runRecall, hn, sceneOfNum_val]
      dsimp only
      rw [if_neg hwithin, hsc]

/-- Settles O24. -/
theorem recallWritesTheScene : Obligations.RecallWritesTheScene := by
  intro p r s n ha hn hflags
  obtain ⟨hempty, hdefined⟩ := runRecall_eq (p := p) (s := s) hn hflags
  refine ⟨fun hsc => ha.onlyAnswered rfl (hempty hsc), ?_⟩
  rintro fade es o exclusive needed updated released free hsc rfl rfl hneeded hupdated hreleased rfl
  have hrun := hdefined fade es hsc
  have hattached := ha.attached (by decide)
  have hclaims : neededClaims (sourceOf p) (sceneLevel es) s = needed := hneeded.symm
  refine ⟨fun hspace => ?_, fun hspace hq hpool hordered => ?_⟩
  · rw [← hclaims] at hspace ⊢
    exact writeChange_refused ha rfl hrun hspace
  · obtain ⟨t, ht⟩ := writeChange_done (c := .recall) ha rfl hrun (runRecall_acts hattached).controlKept hattached
      (by rw [hclaims]; exact hspace) hq hpool
    have hheld : heldOn (sourceOf p) (fun h => (sceneLevel es h).isSome) s = updated := hupdated.symm
    have hgone : heldOn (sourceOf p) (fun h => (r.byte 1).getLsbD 2 && !(sceneLevel es h).isSome) s = released := hreleased.symm
    have hfree := ht.free
    rw [removedClaims, hgone, hclaims] at hfree
    dsimp only at hfree
    have hafter : t.store.free = s.store.free - needed +
        (if (if (r.byte 1).getLsbD 3 = true then r.num16 2 else fade) = 0 then released else 0) := by omega
    have hcompletes := ht.completes
    rw [hclaims, hheld, hgone, hafter] at hcompletes
    refine ⟨t, hcompletes, hafter, fun h => ?_, ht.taken, ht.placed, ht.rest⟩
    cases hv : sceneLevel es h with
    | some v => exact writtenOn_of_lists ht.lists hordered ht.priority hv
    | none => exact releasedAt_of_lists ht.lists hv

end Sys2Proof.Machine
end

section
/-! PROOFS. The Level Resolver: the merge modes (O25), the lead notices (O26) and CONFIG_CHANNELS (O27). -/

namespace Sys2Proof.Machine
open Sys2Proof Host

/-! ### O25: resolution (R28 to R31) -/

/-- The greatest claim stands behind smaller ones, and none after it is greater: the earliest of the greatest (R30). -/
theorem greatest_split (best : Claim) (l : List Claim) : ∃ before after, best :: l = before ++ greatest best l :: after ∧
    (∀ d ∈ before, d.level < (greatest best l).level) ∧ ∀ d ∈ after, d.level ≤ (greatest best l).level := by
  induction l generalizing best with
  | nil => exact ⟨[], [], rfl, by simp, by simp⟩
  | cons e l ih =>
    unfold greatest
    split
    · next hlt =>
      obtain ⟨before, after, hl, hbefore, hafter⟩ := ih e
      refine ⟨best :: before, after, by rw [hl]; rfl, fun d hd => ?_, hafter⟩
      rcases List.mem_cons.1 hd with rfl | hd
      · cases before with
        | nil =>
          obtain ⟨he, _⟩ := List.cons.inj hl
          rwa [← he]
        | cons b before =>
          obtain ⟨he, _⟩ := List.cons.inj hl
          exact BitVec.lt_trans hlt (he ▸ hbefore b (List.mem_cons_self ..))
      · exact hbefore d hd
    · next hge =>
      have hle : e.level ≤ best.level := BitVec.not_lt.1 hge
      obtain ⟨before, after, hl, hbefore, hafter⟩ := ih best
      cases before with
      | nil =>
        obtain ⟨he, hafterl⟩ := List.cons.inj hl
        refine ⟨[], e :: l, by rw [← he]; rfl, by simp, fun d hd => ?_⟩
        rcases List.mem_cons.1 hd with rfl | hd
        · rwa [← he]
        · exact hafter d (hafterl ▸ hd)
      | cons b before =>
        obtain ⟨rfl, hrest⟩ := List.cons.inj hl
        have hbest := hbefore best (List.mem_cons_self ..)
        refine ⟨best :: e :: before, after, congrArg (best :: e :: ·) hrest, fun d hd => ?_, hafter⟩
        rcases List.mem_cons.1 hd with rfl | hd
        · exact hbest
        · rcases List.mem_cons.1 hd with rfl | hd
          · bv_omega
          · exact hbefore d (List.mem_cons_of_mem _ hd)

section tier
variable {prio : Source → Fin 8} {c0 : Claim} {rest : List Claim}

/-- The claims behind the first that share its priority (R29). -/
abbrev tierOf (prio : Source → Fin 8) (c0 : Claim) (rest : List Claim) : List Claim :=
  rest.takeWhile fun d => prio d.source == prio c0.source

theorem tierOf_priority {d : Claim} (h : d ∈ tierOf prio c0 rest) : prio d.source = prio c0.source := by
  simpa using List.mem_takeWhile_imp h

/-- Behind the top tier of a list in order, every priority is lower. -/
theorem priority_lt_of_below (h : Ordered prio (c0 :: rest)) {d : Claim}
    (hd : d ∈ rest.dropWhile fun d => prio d.source == prio c0.source) : prio d.source < prio c0.source := by
  unfold Ordered at h
  obtain ⟨hfirst, hrest⟩ := List.pairwise_cons.1 h
  generalize hbelow : rest.dropWhile (fun d => prio d.source == prio c0.source) = below at hd
  have hsub : below.Sublist rest := hbelow ▸ List.dropWhile_sublist _
  cases below with
  | nil => cases hd
  | cons b below =>
    have hb : prio b.source < prio c0.source := by
      have hne := List.head_dropWhile_not (fun d : Claim => prio d.source == prio c0.source) (l := rest)
        (by simp [hbelow])
      simp only [hbelow, List.head_cons, beq_eq_false_iff_ne] at hne
      exact lt_of_le_of_ne (hfirst b (hsub.subset (List.mem_cons_self ..))) hne
    rcases List.mem_cons.1 hd with rfl | hd
    · exact hb
    · exact lt_of_le_of_lt ((List.pairwise_cons.1 (hrest.sublist hsub)).1 d hd) hb

/-- The leader in PEAK mode, and where it stands in the list (R30). -/
theorem peak_split (h : Ordered prio (c0 :: rest)) : ∃ before after,
    c0 :: rest = before ++ greatest c0 (tierOf prio c0 rest) :: after ∧
      prio (greatest c0 (tierOf prio c0 rest)).source = prio c0.source ∧
      (∀ d ∈ before, d.level < (greatest c0 (tierOf prio c0 rest)).level) ∧
      ∀ d ∈ after, prio d.source = prio c0.source → d.level ≤ (greatest c0 (tierOf prio c0 rest)).level := by
  obtain ⟨before, after, hl, hbefore, hafter⟩ := greatest_split c0 (tierOf prio c0 rest)
  refine ⟨before, after ++ rest.dropWhile fun d => prio d.source == prio c0.source, ?_, ?_, hbefore, fun d hd hp => ?_⟩
  · rw [← List.cons_append, ← List.append_assoc, ← hl, List.cons_append, List.takeWhile_append_dropWhile]
  · exact (greatest_mem c0 (tierOf prio c0 rest)).elim (fun he => by rw [he]) tierOf_priority
  · rcases List.mem_append.1 hd with hd | hd
    · exact hafter d hd
    · exact absurd hp (priority_lt_of_below h hd).ne

end tier

/-- Settles O25. -/
theorem resolutionFollowsTheModes : Obligations.ResolutionFollowsTheModes := by
  intro cfg prio l hl
  refine ⟨resolve_level_le cfg prio l, fun hnil => by rw [hnil, resolve_nil]; rfl, ?_⟩
  rintro c0 rest rfl
  cases hmode : cfg.mode with
  | latest =>
    refine ⟨[], c0, rest, rfl, ?_, rfl⟩
    rw [resolve, hmode]
    rfl
  | peak =>
    obtain ⟨before, after, hsplit, hspec⟩ := peak_split hl
    refine ⟨before, _, after, hsplit, ?_, hspec⟩
    rw [resolve, hmode]
    rfl

/-! ### O26: lead notices (R37 to R39) -/

/-- The notice for a source that leads or led, if its claim is in the list with watch yes (R38). -/
def watchNotice (leader : Option Source) (l : List Claim) (n : Claim → Notice) : List Addressed :=
  match leader with
  | none => []
  | some a =>
    match Source.port? a, findClaim a l with
    | some p, some c => if c.watch then [(p, n c)] else []
    | _, _ => []

theorem port?_eq_some {a : Source} {p : Port} : Source.port? a = some p ↔ a = sourceOf p := by
  cases a <;> cases p <;> decide

theorem mem_watchNotice {leader : Option Source} {l : List Claim} {n : Claim → Notice} {x : Addressed} :
    x ∈ watchNotice leader l n ↔ ∃ (p : Port) (c : Claim), findClaim (sourceOf p) l = some c ∧ c.watch = true ∧
      leader = some (sourceOf p) ∧ x = (p, n c) := by
  constructor
  · intro hx
    unfold watchNotice at hx
    split at hx
    · cases hx
    · split at hx
      · next a _ p c hp hc =>
        rw [port?_eq_some] at hp
        subst hp
        split at hx
        · next hw => exact ⟨p, c, hc, hw, rfl, List.mem_singleton.1 hx⟩
        · cases hx
      · cases hx
  · rintro ⟨p, c, hc, hw, rfl, rfl⟩
    simp [watchNotice, port?_sourceOf, hc, hw]

/-- A lead notice: the other source, the level the channel now has, and the level of the claim (R39). -/
abbrev leadNotice (kind : NoticeKind) (h : Chan) (other : Option Source) (level : Level) (c : Claim) : Notice :=
  { kind := kind, subject := leaderCode other, item := byteOf h.val, tag := 0, value := level, extra := c.level }

theorem leadNotices_eq (h : Chan) (before after : Resolved) (l : List Claim) : leadNotices h before after l =
    if before.leader = after.leader then [] else
      watchNotice before.leader l (leadNotice .leadLost h after.leader after.level) ++
      watchNotice after.leader l (leadNotice .leadTaken h before.leader after.level) := rfl

/-- Settles O26. -/
theorem leadNoticesTellALeaderChange : Obligations.LeadNoticesTellALeaderChange := by
  intro h before after l x
  rw [leadNotices_eq]
  by_cases heq : before.leader = after.leader
  · simp [heq]
  · rw [if_neg heq, List.mem_append, mem_watchNotice, mem_watchNotice]
    constructor
    · rintro (⟨p, c, hc, hw, hx⟩ | ⟨p, c, hc, hw, hx⟩)
      · exact ⟨heq, p, c, hc, hw, .inl hx⟩
      · exact ⟨heq, p, c, hc, hw, .inr hx⟩
    · rintro ⟨_, p, c, hc, hw, hx | hx⟩
      · exact .inl ⟨p, c, hc, hw, hx⟩
      · exact .inr ⟨p, c, hc, hw, hx⟩

/-! ### O27: CONFIG_CHANNELS (R26, R34, R41, R42) -/

/-- A code that is 0 or not, by its value. -/
theorem polarityOfCode_num (r : Request) (i : Nat) :
    polarityOfCode (r.byte i) = if r.num i = 0 then .activeHigh else .activeLow := by
  simp only [polarityOfCode, ← num_eq (b := 0)]
  rfl

theorem mergeModeOfCode_num (r : Request) (i : Nat) : mergeModeOfCode (r.byte i) = if r.num i = 0 then .latest else .peak := by
  simp only [mergeModeOfCode, ← num_eq (b := 0)]
  rfl

section configChannels
variable {p : Port} {r : Request} {s : State}

theorem channelsInRange_true (hrun : runInRange (r.num 0) (r.num 1) = true) (hmask : (r.byte 2).toNat ≤ 31)
    (h3 : (r.byte 2).getLsbD 0 = true → r.num 3 ≤ 1) (h4 : (r.byte 2).getLsbD 1 = true → r.num 4 ≤ 1)
    (h5 : (r.byte 2).getLsbD 2 = true → r.num 5 ≤ 1) : channelsInRange r = true := by
  have hwithin : setWithin (r.byte 2) 5 = true := setWithin_true.2 (Nat.lt_succ_of_le hmask)
  simp only [channelsInRange, hrun, hwithin, Bool.true_and, Bool.and_eq_true, Bool.or_eq_true, Bool.not_eq_true',
    decide_eq_true_eq, ← Bool.not_eq_true, ← imp_iff_not_or]
  exact ⟨⟨h3, h4⟩, h5⟩

theorem configChanges_iff : configChanges r s = true ↔ ∃ h, (configuredTable r s).get h ≠ s.resolver.config.get h := by
  simp [configChanges]

/-- The resolver after the run is configured and recomputed (R34, R42). -/
def configuredResolver (r : Request) (s : State) : LevelResolver :=
  { config := configuredTable r s
    resolved := Vector.ofFn fun h =>
      if inRun (r.num 0) (r.num 1) h then resolve ((configuredTable r s).get h) (priorityOf s) (s.store.lists.get h)
      else s.resolver.resolved.get h }

/-- The lead notices of the run (R34, R37). -/
def configuredNotices (r : Request) (s : State) (after : Chan → Resolved) : List Addressed :=
  allChannels.flatMap fun h => if inRun (r.num 0) (r.num 1) h then
    leadNotices h (s.resolver.resolved.get h) (after h) (s.store.lists.get h) else []

theorem runConfigChannels_unchanged (hrange : channelsInRange r = true) (h : configChanges r s = false) :
    runConfigChannels p r s = answer [0, 0] s := by
  rw [runConfigChannels, if_neg (by simp [hrange]), if_pos h]

/-- The state after the run is configured and recomputed, its notices placed (R34, R42). -/
def configuredState (r : Request) (s : State) : State :=
  raise (configuredNotices r s (configuredResolver r s).resolved.get) { s with resolver := configuredResolver r s }

theorem configuredState_placed (hq : QueuesBounded s) :
    Placed (configuredNotices r s (configuredResolver r s).resolved.get) s (configuredState r s) := by
  have hplaced := raise_placed (configuredNotices r s (configuredResolver r s).resolved.get)
    { s with resolver := configuredResolver r s } fun q => hq q
  exact fun q => hplaced q

theorem configuredState_resolver : (configuredState r s).resolver = configuredResolver r s := rfl

theorem configuredState_eq : configuredState r s =
    { s with ports := (configuredState r s).ports, resolver := (configuredState r s).resolver } := rfl

theorem recompute_configured : recompute (inRun (r.num 0) (r.num 1)) noneDone
    { s with resolver := { s.resolver with config := configuredTable r s } } =
      ({ s with resolver := configuredResolver r s }, configuredNotices r s (configuredResolver r s).resolved.get) := by
  have hp : priorityOf { s with resolver := { s.resolver with config := configuredTable r s } } = priorityOf s :=
    priorityOf_congr (fun _ => rfl) rfl
  simp only [recompute, hp, noneDone, List.nil_append]
  rfl

theorem runConfigChannels_changed (hrange : channelsInRange r = true) (h : configChanges r s = true) :
    runConfigChannels p r s = answer
      [byteOf (levelsChanged s (configuredState r s)), byteOf (leadersChanged s (configuredState r s))] (configuredState r s) := by
  rw [runConfigChannels, if_neg (by simp [hrange]), if_neg (by simp [h])]
  dsimp only
  rw [recompute_configured]
  rfl

end configChannels

/-- Settles O27. -/
theorem configChannelsRecomputesTheRun : Obligations.ConfigChannelsRecomputesTheRun := by
  rintro p r s run mask new ha hq hrun rfl hmask h3 h4 h5 rfl hnew
  have hrange := channelsInRange_true hrun hmask h3 h4 h5
  have htable : ∀ h, (configuredTable r s).get h = new h := fun h => by
    rw [configuredTable, get_ofFn, hnew]
    simp only [configuredBy, polarityOfCode_num, mergeModeOfCode_num]
  refine ⟨fun hsame => ha.onlyAnswered rfl (runConfigChannels_unchanged hrange ?_), fun hchanged => ?_⟩
  · rw [Bool.eq_false_iff, Ne, configChanges_iff]
    rintro ⟨h, hne⟩
    exact hne ((htable h).trans (hsame h))
  · have hrunEq := runConfigChannels_changed (p := p) (s := s) hrange
      (configChanges_iff.2 (by simpa only [htable] using hchanged))
    have hacts : ControlKept s (runConfigChannels p r s).state := runConfigChannels_acts.controlKept
    rw [hrunEq] at hacts
    have hplaced := configuredState_placed (r := r) hq
    have hresolver := configuredState_resolver (r := r) (s := s)
    have hstate := configuredState_eq (r := r) (s := s)
    generalize configuredState r s = u at *
    refine ⟨complete p r (answer [byteOf (levelsChanged s u), byteOf (leadersChanged s u)] u), ?_, fun h => ?_, ?_, ?_⟩
    · rw [complete_resolver]
      exact ha.completes rfl hrunEq hacts
    · rw [complete_resolver, answer, hresolver]
      refine ⟨htable h, ?_⟩
      rw [configuredResolver, get_ofFn, htable]
    · rw [complete_resolver]
      generalize [byteOf (levelsChanged s u), byteOf (leadersChanged s u)] = body
      have heq := complete_eq p r (answer body u)
      generalize complete p r (answer body u) = t at heq ⊢
      conv_lhs => rw [heq, answer, hstate]
      rfl
    · rw [complete_resolver, answer, hresolver]
      exact hplaced.complete p r (y := answer _ u)

end Sys2Proof.Machine
end

section
/-! PROOFS. FADE_STEP (O29): the step is a change of the claims whose emptied reports place SOURCE_STATE among its own notices at open
places (R10, R47, R54, R68). -/

namespace Sys2Proof.Machine
open Sys2Proof Host

/-! ### Notices inserted at open places (R165) -/

section insert
variable {P : Addressed → Bool}

theorem insertFree_perm (n : Nat) (x : Addressed) (ns : List Addressed) : (insertFree n x ns).Perm (x :: ns) := by
  unfold insertFree
  refine List.perm_middle.trans (List.Perm.cons x ?_)
  rw [List.take_append_drop]

theorem insertFree_filter (n : Nat) {x : Addressed} (hx : P x = false) (ns : List Addressed) :
    (insertFree n x ns).filter P = ns.filter P := by
  unfold insertFree
  dsimp only
  rw [List.filter_append, List.filter_cons_of_neg (by simp [hx]), ← List.filter_append, List.take_append_drop]

theorem insertAllFree_perm (n : Nat) (xs ns : List Addressed) : (insertAllFree n xs ns).Perm (xs ++ ns) := by
  induction xs generalizing n ns with
  | nil => exact List.Perm.refl _
  | cons x xs ih => exact (ih _ _).trans (((insertFree_perm n x ns).append_left xs).trans List.perm_middle)

theorem insertAllFree_filter (n : Nat) {xs : List Addressed} (hxs : ∀ x ∈ xs, P x = false) (ns : List Addressed) :
    (insertAllFree n xs ns).filter P = ns.filter P := by
  induction xs generalizing n ns with
  | nil => rfl
  | cons x xs ih =>
    rw [insertAllFree, ih _ fun y hy => hxs y (List.mem_cons_of_mem _ hy), insertFree_filter _ (hxs x (List.mem_cons_self ..))]

end insert

/-! ### The emptied reports and their notices (R68, R75) -/

/-- SOURCE_STATE of a source that a change has emptied: DETACHED, with no claim. -/
def emptiedNotice (p : Port) : Notice :=
  { kind := .sourceState, subject := portCode p, item := 0xFF, tag := 0, value := SessionState.detached.code.setWidth 16, extra := 0 }

/-- Rights and subscriptions are the same. -/
def SameSubscribers (s t : State) : Prop :=
  ∀ q, (t.sessions.get q).subscriptions = (s.sessions.get q).subscriptions ∧ (t.sessions.get q).rights = (s.sessions.get q).rights

theorem subscribersGet_same {s t : State} (h : SameSubscribers s t) (c : NoticeClass) (n : Notice) :
    subscribersGet c n t = subscribersGet c n s := by
  simp only [subscribersGet, h _]

/-- The notices of the report of one source, if the change has emptied it. -/
def emptiedNotices (emptied : Bool) (p : Port) (s : State) : List Addressed :=
  if emptied then subscribersGet .sources (emptiedNotice p) s else []

theorem emptiedNotices_kind {emptied : Bool} {p : Port} {s : State} {x : Addressed} (hx : x ∈ emptiedNotices emptied p s) :
    x.2.kind = .sourceState := by
  unfold emptiedNotices at hx
  split at hx
  · obtain ⟨q, _, rfl⟩ := List.mem_map.1 hx
    rfl
  · cases hx

/-- The notices that waited, with those of the reports at open places among them. -/
structure Reports (done reports ns : List Addressed) : Prop where
  others : ns.filter (fun x => decide (x.2.kind ≠ .sourceState)) = done
  sources : (ns.filter fun x => decide (x.2.kind = .sourceState)).Perm reports

section report
variable {before s : State} {p q : Port} {x : State × List Addressed}

theorem reportEmptied_sameSubscribers (h : SameSubscribers s x.1) : SameSubscribers s (reportEmptied before p x).1 := by
  intro q
  rw [reportEmptied_state]
  dsimp only
  split
  · rw [PerPort.get_set]
    split
    · next hq => rw [hq]; exact h p
    · exact h q
  · exact h q

theorem emptiedTo_reportEmptied (hne : p ≠ q) : emptiedTo before (reportEmptied before q x).1 p = emptiedTo before x.1 p := by
  unfold emptiedTo
  rw [reportEmptied_state]
  dsimp only [claimCount]
  split
  · rw [PerPort.get_set, if_neg hne]
    rfl
  · rfl

/-- A report inserts the notices of its source among those that wait. -/
theorem reportEmptied_notices (h : SameSubscribers s x.1) : ∃ n, (reportEmptied before p x).2 =
    insertAllFree n (emptiedNotices (emptiedTo before x.1 p) p s) x.2 := by
  cases he : emptiedTo before x.1 p with
  | false => exact ⟨0, by rw [reportEmptied_not he]; rfl⟩
  | true =>
    have hsame : SameSubscribers s (updSession p (fun rec => { rec with state := .detached }) x.1) := fun q => by
      rw [updSession_sessions, PerPort.get_set]
      split
      · next hq => rw [hq]; exact h p
      · exact h q
    simp only [emptiedTo, Bool.and_eq_true, decide_eq_true_eq] at he
    obtain ⟨⟨hpos, hzero⟩, hstate⟩ := he
    have hnotice : sourceStateNotice p 0 (updSession p (fun rec => { rec with state := .detached }) x.1) = emptiedNotice p := by
      rw [sourceStateNotice, updSession_sessions, PerPort.get_set, if_pos rfl, claimCount, updSession_store]
      rw [claimCount] at hzero
      rw [hzero]
      rfl
    refine ⟨x.1.freeCount, ?_⟩
    unfold reportEmptied
    rw [if_pos ⟨hpos, hzero, hstate⟩]
    dsimp only
    rw [hnotice, toSubscribers_eq, subscribersGet_same hsame]
    rfl

theorem Reports.insert {done reports ns : List Addressed} (h : Reports done reports ns) (n : Nat) (emptied : Bool) (p : Port)
    (s : State) : Reports done (emptiedNotices emptied p s ++ reports) (insertAllFree n (emptiedNotices emptied p s) ns) where
  others := by
    rw [insertAllFree_filter n fun x hx => by simp [emptiedNotices_kind hx]]
    exact h.others
  sources := by
    have hall : (emptiedNotices emptied p s).filter (fun x => decide (x.2.kind = .sourceState)) = emptiedNotices emptied p s :=
      List.filter_eq_self.2 fun x hx => by simp [emptiedNotices_kind hx]
    refine ((insertAllFree_perm n _ ns).filter _).trans ?_
    rw [List.filter_append, hall]
    exact h.sources.append_left _

end report

/-- The reports of a change: on top of its own notices, those of each source it has emptied. -/
theorem reported_notices {lists : Vector (List Claim) 64} {done : Chan → List Addressed} {s : State}
    (hdone : ∀ x ∈ committedNotices lists done s, x.2.kind ≠ .sourceState) :
    Reports (committedNotices lists done s) (allPorts.flatMap fun p => emptiedNotices (emptiedBy lists s p) p s)
      (reported lists done s).2 := by
  have hcommit : ∀ p, emptiedTo s (commit lists done s).1 p = emptiedBy lists s p := fun p => by
    unfold emptiedTo emptiedBy
    rw [claimCount_commit, commit_state]
  have h0 : Reports (committedNotices lists done s) [] (commit lists done s).2 := by
    rw [commit_notices]
    refine ⟨List.filter_eq_self.2 fun x hx => by simpa using hdone x hx, ?_⟩
    rw [List.filter_eq_nil_iff.2 fun x hx => by simpa using hdone x hx]
  have hs0 : SameSubscribers s (commit lists done s).1 := fun q => by
    rw [commit_state]
    exact ⟨rfl, rfl⟩
  have hs1 := reportEmptied_sameSubscribers (before := s) (p := .cp0) hs0
  have hs2 := reportEmptied_sameSubscribers (before := s) (p := .cp1) hs1
  obtain ⟨n0, e0⟩ := reportEmptied_notices (before := s) (p := .cp0) hs0
  obtain ⟨n1, e1⟩ := reportEmptied_notices (before := s) (p := .cp1) hs1
  obtain ⟨n2, e2⟩ := reportEmptied_notices (before := s) (p := .cp2) hs2
  rw [hcommit] at e0
  rw [emptiedTo_reportEmptied (by decide), hcommit] at e1
  rw [emptiedTo_reportEmptied (by decide), emptiedTo_reportEmptied (by decide), hcommit] at e2
  have h := ((h0.insert n0 (emptiedBy lists s .cp0) .cp0 s).insert n1 (emptiedBy lists s .cp1) .cp1 s).insert n2
    (emptiedBy lists s .cp2) .cp2 s
  unfold reported
  rw [e2, e1, e0]
  refine ⟨h.others, h.sources.trans ?_⟩
  simp only [allPorts, List.flatMap_cons, List.flatMap_nil, List.append_nil]
  exact List.perm_append_comm.trans ((List.perm_append_comm.append_right _).trans (by rw [List.append_assoc]))

/-! ### The notices of a step -/

theorem fadeDone_kind {h : Chan} {c : Claim} {extra : BitVec 16} {x : Addressed} (hx : x ∈ fadeDone h c extra) :
    x.2.kind = .fadeDone := by
  unfold fadeDone at hx
  split at hx
  · cases hx
  · split at hx
    · rw [List.mem_singleton.1 hx]
    · cases hx

theorem claimDone_kind {h : Chan} {c : Claim} {x : Addressed} (hx : x ∈ claimDone h c) : x.2.kind = .fadeDone := by
  unfold claimDone at hx
  split at hx
  · cases hx
  · exact fadeDone_kind hx
  · exact fadeDone_kind hx

theorem leadNotices_kind {h : Chan} {before after : Resolved} {l : List Claim} {x : Addressed}
    (hx : x ∈ leadNotices h before after l) : x.2.kind = .leadLost ∨ x.2.kind = .leadTaken := by
  obtain ⟨_, p, c, _, _, ⟨_, rfl⟩ | ⟨_, rfl⟩⟩ := (leadNoticesTellALeaderChange h before after l x).1 hx
  · exact .inl rfl
  · exact .inr rfl

theorem stepped_kind {s : State} {lists : Vector (List Claim) 64} {x : Addressed}
    (hx : x ∈ committedNotices lists (fun h => listDone h (s.store.lists.get h)) s) : x.2.kind ≠ .sourceState := by
  obtain ⟨h, _, hx⟩ := List.mem_flatMap.1 hx
  rcases List.mem_append.1 hx with hx | hx
  · obtain ⟨c, _, hx⟩ := List.mem_flatMap.1 hx
    rw [claimDone_kind hx]
    decide
  · split at hx
    · rcases leadNotices_kind hx with hk | hk <;> rw [hk] <;> decide
    · cases hx

/-! ### The step -/

/-- A step of every fade, with the timer set anew (R47). -/
abbrev steppedTo (s : State) : State :=
  applyChange (steppedLists s) (fun h => listDone h (s.store.lists.get h)) s

theorem fadeStep_taken {s : State} (hr : s.resetState.lasting = none) (htimer : s.fades.timer ≠ none)
    (hmoving : anyMoving s.store.lists = true) : fadeStep s =
      { steppedTo s with
        fades := { s.fades with timer := if anyMoving (steppedLists s) then some s.fades.period else none } } := by
  have hfades : committedFades (steppedLists s) s = s.fades := if_neg fun h => htimer h.1
  have htaken : ¬ (resetLasts s = true ∨ s.fades.timer = none) := by
    rw [resetLasts_of_none hr]
    simp [htimer]
  rw [fadeStep, if_neg htaken, if_pos hmoving]
  simp only [applyChange_fades, hfades, applyChange_store, storeWith_lists]

/-- What a change leaves of a state, its sessions written out (R68). -/
theorem applyChange_state (lists : Vector (List Claim) 64) (done : Chan → List Addressed) (s : State) : applyChange lists done s =
    { s with
      ports := (applyChange lists done s).ports
      store := (applyChange lists done s).store
      resolver := (applyChange lists done s).resolver
      fades := (applyChange lists done s).fades
      sessions := ⟨reportedSession lists s .cp0, reportedSession lists s .cp1, reportedSession lists s .cp2⟩
      freeCount := (applyChange lists done s).freeCount } := by
  rw [applyChange_eq, reported_state]
  rfl

theorem stepped_placed {s : State} (hq : QueuesBounded s) :
    Placed (reported (steppedLists s) (fun h => listDone h (s.store.lists.get h)) s).2 s (steppedTo s) := by
  have hports : (reported (steppedLists s) (fun h => listDone h (s.store.lists.get h)) s).1.ports = s.ports := by
    rw [reported_state]
  refine (raise_placed _ (reported (steppedLists s) (fun h => listDone h (s.store.lists.get h)) s).1 ?_).congr hports.symm rfl
  unfold QueuesBounded
  rw [hports]
  exact hq

/-- The notices of a step, but for the reports of emptied sources (R10, R40, R54). -/
theorem stepped_notices {s t : State} (hlists : t.store.lists = steppedLists s)
    (hresolver : t.resolver = committedResolver (steppedLists s) s) :
    committedNotices (steppedLists s) (fun h => listDone h (s.store.lists.get h)) s = allChannels.flatMap fun h =>
      (s.store.lists.get h).flatMap (claimDone h) ++
        if listKey (s.store.lists.get h) = listKey (t.store.lists.get h) then []
        else leadNotices h (s.resolver.resolved.get h) (t.resolver.resolved.get h) (t.store.lists.get h) := by
  simp only [committedNotices, hlists, hresolver, handedOn, decide_eq_true_eq, ite_not, listDone]

/-- SOURCE_STATE of the sources that a step has emptied, as the state the step leaves shows it (R68, R75). -/
theorem emptiedNotices_eq {lists : Vector (List Claim) 64} {s t : State} (hlists : t.store.lists = lists)
    (hsessions : ∀ q, t.sessions.get q = reportedSession lists s q) :
    (allPorts.flatMap fun p => emptiedNotices (emptiedBy lists s p) p s) =
      (allPorts.filter (emptiedBy lists s)).flatMap fun p => subscribersGet .sources (sourceStateOf p 0 t) t := by
  have hsame : SameSubscribers s t := fun q => by
    rw [hsessions, reportedSession]
    split <;> exact ⟨rfl, rfl⟩
  have hone : ∀ p, emptiedBy lists s p = true →
      emptiedNotices (emptiedBy lists s p) p s = subscribersGet .sources (sourceStateOf p 0 t) t := fun p he => by
    have hzero : countClaims lists (sourceOf p) = 0 := by
      simp only [emptiedBy, Bool.and_eq_true, decide_eq_true_eq] at he
      exact he.1.2
    rw [he, subscribersGet_same hsame, sourceStateOf, hsessions, reportedSession, he, hlists, hzero]
    rfl
  induction allPorts with
  | nil => rfl
  | cons p ps ih =>
    rw [List.flatMap_cons, ih]
    cases he : emptiedBy lists s p with
    | true => rw [List.filter_cons_of_pos he, List.flatMap_cons, ← he, hone p he]
    | false =>
      rw [List.filter_cons_of_neg (by simp [he])]
      rfl

/-- Settles O29. -/
theorem fadeStepAdvancesEveryFade : Obligations.FadeStepAdvancesEveryFade := by
  intro s
  refine ⟨fun h => ?_, fun hr htimer hmoving => ?_, fun hr htimer hmoving hq hpool => ?_⟩
  · exact congrArg Outcome.next (if_pos (h.imp_left resetLasts_of_lasting))
  · have htaken : ¬ (resetLasts s = true ∨ s.fades.timer = none) := by
      rw [resetLasts_of_none hr]
      simp [htimer]
    refine congrArg Outcome.next ?_
    rw [fadeStep, if_neg htaken, if_neg (by rw [hmoving]; decide)]
  · have hcovered : Covered (steppedLists s) s.store := hpool.covered_of_fewer fun h x hh => by
      rw [steppedLists_get] at hh
      exact (shrinks_stepList _).holds hh
    have htaken : ChangeTaken s (steppedTo s) := applyChange_taken _ _ s hcovered.ports hcovered.stream
    obtain ⟨hrecomputed, _, hmoved⟩ := htaken
    have hreports := reported_notices (lists := steppedLists s) (fun x => stepped_kind (s := s))
    have hplaced := stepped_placed hq
    have hstep := fadeStep_taken hr htimer hmoving
    have hstate : steppedTo s = { s with
      ports := (steppedTo s).ports
      store := (steppedTo s).store
      resolver := (steppedTo s).resolver
      fades := (steppedTo s).fades
      sessions := ⟨_, _, _⟩
      freeCount := (steppedTo s).freeCount } := applyChange_state ..
    have hlists : (steppedTo s).store.lists = steppedLists s := by rw [applyChange_store, storeWith_lists]
    have hresolver : (steppedTo s).resolver = committedResolver (steppedLists s) s := applyChange_resolver ..
    have hsessions : ∀ q, (steppedTo s).sessions.get q = reportedSession (steppedLists s) s q := applyChange_session _ _ s
    have hemptied := emptiedNotices_eq hlists hsessions
    have hcommitted := stepped_notices hlists hresolver
    have hkept := fadeStep_controlKept s
    rw [hstep] at hkept
    rw [hcommitted, hemptied] at hreports
    rw [show exec .fadeStep s = .next (fadeStep s) from rfl, hstep]
    generalize steppedTo s = w at *
    refine ⟨_, _, w.freeCount, emptiedBy (steppedLists s) s, rfl, fun h => ?_,
      ⟨hrecomputed.config, hrecomputed.kept, hrecomputed.anew⟩, ⟨hmoved.counts, hmoved.entries, hmoved.reserved⟩, ?_, ?_,
      hkept.ports, hplaced.congr rfl rfl, hreports.others, hreports.sources⟩
    · rw [hlists, steppedLists_get]
      rfl
    · funext p
      rw [hlists, emptiedBy, hpool.counts]
      cases decide ((s.sessions.get p).state = .detaching) <;> simp
    · rw [hlists]
      conv_lhs => rw [hstate]
      rfl

end Sys2Proof.Machine
end

section
/-! PROOFS. The Scene Store (O30, O31): a scene is stored in place of another and SCENE_CHANGED follows; and the entries of a DEFINE_SCENE
body are read as they stand there. -/

namespace Sys2Proof.Machine
open Sys2Proof Host

/-- Entries that stand in the body in ascending order are the ones parsed (R104, R105). -/
theorem parseEntries_eq_some {r : Request} {es : List (Chan × Level)} {i : Nat} {after : Option Nat}
    (hread : ∀ (j : Nat) (e : Chan × Level), es[j]? = some e → r.num (i + 3 * j) = e.1.val ∧ r.word (i + 1 + 3 * j) = e.2)
    (hascending : es.Pairwise fun a b => a.1 < b.1) (hafter : ∀ a, after = some a → ∀ e ∈ es, a < e.1.val) :
    parseEntries r i after es.length = some es := by
  induction es generalizing i after with
  | nil => rfl
  | cons e es ih =>
    obtain ⟨hfirst, hrest⟩ := List.pairwise_cons.1 hascending
    obtain ⟨hnum, hword⟩ := hread 0 e rfl
    have htail : parseEntries r (i + 3) (some e.1.val) es.length = some es := by
      refine ih (fun j d hd => ?_) hrest fun a ha d hd => ?_
      · obtain ⟨hn, hw⟩ := hread (j + 1) d hd
        rw [show i + 3 + 3 * j = i + 3 * (j + 1) by omega, show i + 3 + 1 + 3 * j = i + 1 + 3 * (j + 1) by omega]
        exact ⟨hn, hw⟩
      · rw [← Option.some.inj ha]
        exact hfirst d hd
    have hall : (after.all fun a => decide (a < e.1.val)) = true := by
      cases after with
      | none => rfl
      | some a => simpa using hafter a rfl e (List.mem_cons_self ..)
    rw [Nat.mul_zero, Nat.add_zero] at hnum hword
    rw [List.length_cons, parseEntries, hnum, chanOfNum_val]
    dsimp only
    rw [if_pos hall, htail, hword]
    rfl

/-- SCENE_CHANGED of a scene as it stands after the change (R111, R190). -/
def sceneNotice (p : Port) (n : Fin 32) (tag : Byte) (sc : Scene) : Notice :=
  { kind := .sceneChanged, subject := portCode p, item := byteOf n.val, tag := tag,
    value := if sceneDefined sc then 1 else 0, extra := BitVec.ofNat 16 (sceneEntriesOf sc).length }

/-- The state after a scene was stored and its change announced (R101, R111). -/
def sceneStoredState (p : Port) (n : Fin 32) (tag : Byte) (sc : Scene) (s : State) : State :=
  raise (toSubscribers .scenes (sceneNotice p n tag sc) s) { s with scenes := storeScene n sc s.scenes }

theorem raiseSceneChanged_stored (p : Port) (n : Fin 32) (tag : Byte) (sc : Scene) (s : State) :
    raiseSceneChanged p n tag { s with scenes := storeScene n sc s.scenes } = sceneStoredState p n tag sc s := by
  have hget : (storeScene n sc s.scenes).scenes.get n = sc := by rw [storeScene, get_set, if_pos rfl]
  rw [raiseSceneChanged]
  dsimp only
  rw [hget]
  rfl

/-- The answer of a request that stores a scene. -/
theorem Admitted.storesScene {k : Kind} {run : Port → Request → State → Reply} {c : Instr} {p : Port} {r : Request} {s : State}
    {n : Fin 32} {sc : Scene} {body : List Byte} (ha : Admitted k p r s) (hexec : exec c s = .next (execute k run s))
    (hkept : ControlKept s (run p r s).state) (hrun : run p r s = answer body (sceneStoredState p n r.tag sc s))
    (hq : QueuesBounded s) : ∃ t, Completes c p r .ok body s t ∧
      t = { s with ports := t.ports, executor := t.executor, scenes := storeScene n sc s.scenes } ∧
      Placed (subscribersGet .scenes (sceneNotice p n r.tag sc) t) s t := by
  rw [hrun] at hkept
  have hplaced : Placed (toSubscribers .scenes (sceneNotice p n r.tag sc) s) s (sceneStoredState p n r.tag sc s) := fun q =>
    raise_placed _ { s with scenes := storeScene n sc s.scenes } (fun q => hq q) q
  have hdone := hplaced.complete p r (y := answer body (sceneStoredState p n r.tag sc s))
  have hsessions : (complete p r (answer body (sceneStoredState p n r.tag sc s))).sessions = s.sessions := complete_sessions ..
  rw [toSubscribers_eq, ← subscribersGet_congr hsessions] at hdone
  exact ⟨_, ha.completes hexec hrun hkept, complete_eq p r _, hdone⟩

/-- The scene store after a scene of these entries takes the place of another (R101). -/
theorem storeScene_eq (n : Fin 32) (sc : Scene) (st : SceneStore) : storeScene n sc st =
    { scenes := st.scenes.set n sc
      free := st.free + (sceneEntriesOf (st.scenes.get n)).length - (sceneEntriesOf sc).length } := rfl

section writeScene
variable {p : Port} {s : State} {n : Fin 32} {fade : Nat} {es : List (Chan × Level)} {available : Nat}
  (havailable : available = s.scenes.free + (sceneEntriesOf (s.scenes.scenes.get n)).length)
include havailable

theorem writeScene_refused (tag : Byte) (h : available < es.length) : writeScene p tag n fade es s =
    { status := .noSceneSpace, body := byteOf es.length :: bytesOf available, state := s } := by
  subst havailable
  exact if_pos h

theorem writeScene_stored (tag : Byte) (h : es.length ≤ available) : writeScene p tag n fade es s =
    answer (byteOf es.length :: bytesOf (available - es.length)) (sceneStoredState p n tag (.defined fade es) s) := by
  subst havailable
  rw [writeScene]
  dsimp only
  rw [if_neg (not_lt.2 h), raiseSceneChanged_stored]
  rfl

end writeScene

/-- Settles O30: both requests write a scene, of entries that they read from the body or from the channels. -/
theorem defineAndCaptureStoreAScene : Obligations.DefineAndCaptureStoreAScene := by
  intro p r s n c fade es available hcase hn havailable
  have hwrites : ∃ (k : Kind) (run : Port → Request → State → Reply), Admitted k p r s ∧ exec c s = .next (execute k run s) ∧
      ControlKept s (run p r s).state ∧ run p r s = writeScene p r.tag n fade es s := by
    rcases hcase with ⟨ha, rfl, hlow, hhigh, hlength, rfl, hascending, hread⟩ | ⟨ha, rfl, hrange, rfl, rfl⟩
    · refine ⟨_, runDefineScene, ha, rfl, runDefineScene_acts.controlKept, ?_⟩
      have hparse : parseEntries r 4 none (r.num 3) = some es := hlength ▸
        parseEntries_eq_some hread hascending fun a ha => by cases ha
      rw [runDefineScene, hn, sceneOfNum_val]
      dsimp only
      rw [if_neg (by omega), hparse]
    · refine ⟨_, runCaptureScene, ha, rfl, runCaptureScene_acts.controlKept, ?_⟩
      rw [runCaptureScene, hn, sceneOfNum_val]
      dsimp only
      rw [if_neg (by simp [hrange])]
  obtain ⟨k, run, ha, hexec, hkept, hrun⟩ := hwrites
  refine ⟨fun hspace => ?_, fun hspace hq => ?_⟩
  · exact ha.onlyAnswered hexec (hrun.trans (writeScene_refused havailable r.tag hspace))
  · obtain ⟨t, hcompletes, heq, hplaced⟩ := ha.storesScene hexec hkept (hrun.trans (writeScene_stored havailable r.tag hspace)) hq
    refine ⟨t, hcompletes, ?_, hplaced⟩
    rw [havailable]
    exact heq

/-- Settles O31. -/
theorem eraseEmptiesAScene : Obligations.EraseEmptiesAScene := by
  intro p r s n ha hn
  refine ⟨fun hsc => ha.onlyAnswered rfl ?_, fun fade es hsc hq => ?_⟩
  · rw [runEraseScene, hn, sceneOfNum_val]
    simp only [hsc]
    rfl
  · have hrun : runEraseScene p r s =
        answer (byteOf es.length :: bytesOf (s.scenes.free + es.length)) (sceneStoredState p n r.tag .empty s) := by
      rw [runEraseScene, hn, sceneOfNum_val]
      simp only [hsc, sceneDefined, if_true, raiseSceneChanged_stored]
      rw [sceneStoredState, raise_scenes, storeScene_eq, hsc]
      rfl
    obtain ⟨t, hcompletes, heq, hplaced⟩ := ha.storesScene (c := .eraseScene) rfl runEraseScene_acts.controlKept hrun hq
    rw [storeScene_eq, hsc] at heq
    exact ⟨t, hcompletes, heq, hplaced⟩

end Sys2Proof.Machine
end

section
/-! PROOFS. The Stream Receiver behind its words: the end of a packet (O34, O35), the loss of the stream (O36) and CONFIG_STREAM (O37). -/

namespace Sys2Proof.Machine
open Sys2Proof Host

/-! ### The tests of a packet (R123) -/

section evaluate
variable {width : SlotWidth} {ws : List StagedWord}

/-- The sum of the words' values, modulo 256 (R123). -/
theorem checkSum_eq_zero : checkSum ws = 0 ↔ (ws.map fun w => w.data.toNat).sum % 256 = 0 := by
  have hfold : ∀ acc : Byte, (ws.foldl (fun acc w => acc + w.data) acc).toNat =
      (acc.toNat + (ws.map fun w => w.data.toNat).sum) % 256 := by
    induction ws with
    | nil => intro acc; simp [Nat.mod_eq_of_lt acc.isLt]
    | cons w ws ih =>
      intro acc
      rw [List.foldl_cons, ih, BitVec.toNat_add, List.map_cons, List.sum_cons]
      omega
  have hsum := hfold 0
  rw [show (0 : Byte).toNat = 0 from rfl, Nat.zero_add] at hsum
  rw [checkSum, ← BitVec.toNat_inj, hsum]
  rfl

theorem evaluatePacket_noise (h : ∃ w ∈ ws, w.noise = true) : evaluatePacket width ws = .noise :=
  if_pos (List.any_eq_true.2 h)

section quiet
variable (hquiet : ∀ w ∈ ws, w.noise = false)
include hquiet

theorem noNoise : ¬ (ws.any (·.noise)) = true := by simpa using hquiet

theorem evaluatePacket_short (h : ws.length < 3 ∨ (width = .wide ∧ (ws.length - 3) % 2 = 1)) :
    evaluatePacket width ws = .short := by
  rw [evaluatePacket, if_neg (noNoise hquiet)]
  by_cases hshort : ws.length < 3
  · rw [if_pos hshort]
  · rw [if_neg hshort, if_pos (h.resolve_left hshort)]

variable (hlength : 3 ≤ ws.length) (heven : ¬ (width = .wide ∧ (ws.length - 3) % 2 = 1))
include hlength heven

theorem evaluatePacket_check (h : (ws.map fun w => w.data.toNat).sum % 256 ≠ 0) : evaluatePacket width ws = .check := by
  rw [evaluatePacket, if_neg (noNoise hquiet), if_neg (not_lt.2 hlength), if_neg heven,
    if_pos (fun hzero => h (checkSum_eq_zero.1 hzero))]

theorem evaluatePacket_accepted (h : (ws.map fun w => w.data.toNat).sum % 256 = 0) : evaluatePacket width ws = .accepted := by
  rw [evaluatePacket, if_neg (noNoise hquiet), if_neg (not_lt.2 hlength), if_neg heven,
    if_neg (fun hne => hne (checkSum_eq_zero.2 h))]

end quiet

end evaluate

/-! ### O34: the idle event (R119 to R124) -/

section idle
variable {s : State} (hr : s.resetState.lasting = none) (harmed : s.stream.idleArmed = true)
include hr harmed

theorem idleEvent_armed : idleEvent s = endPacketIfAny (armIdle false s) := by
  rw [idleEvent, if_neg (by rw [resetLasts_of_none hr, harmed]; decide)]

theorem idleEvent_collecting (hcollecting : s.stream.receiver = .collecting) : idleEvent s = endPacket (armIdle false s) := by
  rw [idleEvent_armed hr harmed, endPacketIfAny, armIdle_stream]
  simp only [hcollecting]

end idle

/-- A discarded packet: the receiver is MUTED and its counters are the new ones. -/
theorem endPacket_discarded {s : State} {k : StreamCounters}
    (h : (evaluatePacket s.stream.record.width s.stream.staging = .noise ∧
        k = { s.stream.counters with noise := bump s.stream.counters.noise }) ∨
      (evaluatePacket s.stream.record.width s.stream.staging = .short ∧
        k = { s.stream.counters with short := bump s.stream.counters.short }) ∨
      (evaluatePacket s.stream.record.width s.stream.staging = .check ∧
        k = { s.stream.counters with check := bump s.stream.counters.check })) :
    endPacket s = { s with stream := { s.stream with receiver := .muted, staging := [], counters := k } } := by
  rcases h with ⟨h, rfl⟩ | ⟨h, rfl⟩ | ⟨h, rfl⟩ <;>
    · rw [endPacket]
      simp only [h]
      rfl

/-- Settles O34. -/
theorem idleDiscardsAFaultyPacket : Obligations.IdleDiscardsAFaultyPacket := by
  rintro s ws k hr rfl rfl
  refine ⟨fun hidle => congrArg Outcome.next (if_pos (.inr hidle)), fun harmed hmuted => congrArg Outcome.next ?_,
    fun k' hk' harmed hcollecting => congrArg Outcome.next ?_⟩
  · rw [idleEvent_armed hr harmed, endPacketIfAny]
    split
    · rfl
    · next hcollecting => cases hmuted.symm.trans hcollecting
  · rw [idleEvent_collecting hr harmed hcollecting]
    refine endPacket_discarded (s := armIdle false s) ?_
    rcases hk' with ⟨hnoise, rfl⟩ | ⟨hquiet, hshort, rfl⟩ | ⟨hquiet, hlength, heven, hsum, rfl⟩
    · exact .inl ⟨evaluatePacket_noise hnoise, rfl⟩
    · exact .inr (.inl ⟨evaluatePacket_short hquiet hshort, rfl⟩)
    · exact .inr (.inr ⟨evaluatePacket_check hquiet hlength heven hsum, rfl⟩)

/-! ### O35: an accepted packet (R15, R126) -/

/-- A notice of the STREAM class, as the state the command leaves shows it (R132). -/
theorem toSubscribers_stream {w t : State} (hcount : claimCount w .str = countClaims w.store.lists .str)
    (hsessions : t.sessions = w.sessions) (hlists : t.store.lists = w.store.lists) (kind : NoticeKind) (value : BitVec 16) :
    toSubscribers .stream (streamNotice kind value w) w = subscribersGet .stream
      { kind := kind, subject := 3, item := 0xFF, tag := 0, value := value,
        extra := BitVec.ofNat 16 (countClaims t.store.lists .str) } t := by
  rw [toSubscribers_eq, ← subscribersGet_congr hsessions, streamNotice, hcount, hlists]
  rfl

/-- A slot that is applied leaves the STR claim STEADY at its level, in its place if it stood at that level (R15). -/
theorem applySlot_spec {prio : Source → Fin 8} {l : List Claim} (hl : ListOrdered prio l) (v : Level) :
    (∃ c, findClaim .str (applySlot prio v l) = some c ∧ c.source = .str ∧ c.state = .steady ∧ c.level = v ∧ c.target = v ∧
      c.notify = (findClaim .str l).elim false (·.notify) ∧ c.watch = (findClaim .str l).elim false (·.watch)) ∧
    if (findClaim .str l).elim false (fun c => decide (c.level = v)) = true then
      (applySlot prio v l).map (·.source) = l.map (·.source)
    else AtFrontOfTier prio .str (applySlot prio v l) := by
  have hfind := applySlot_find prio v l
  cases hc : findClaim .str l with
  | none =>
    rw [hc] at hfind
    refine ⟨⟨_, hfind, rfl, rfl, rfl, rfl, rfl, rfl⟩, ?_⟩
    rw [applySlot, hc]
    exact placeClaim_atFront hl.ordered (streamClaim v)
  | some c =>
    rw [hc] at hfind
    have hsource : (setStreamClaim v c).source = .str := (setStreamClaim_keepsSource v c).trans (findClaim_source hc)
    refine ⟨⟨_, hfind, hsource, rfl, rfl, rfl, rfl, rfl⟩, ?_⟩
    rw [applySlot, hc]
    by_cases hv : c.level = v
    · simp only [Option.elim_some, hv, decide_true, if_true]
      exact map_source_mapClaim (setStreamClaim_keepsSource v) .str l
    · simp only [Option.elim_some, hv, decide_false, Bool.false_eq_true, if_false, if_neg (Ne.symm hv)]
      have hfront := placeClaim_atFront (hl.others (src := .str) (prio' := prio) fun _ _ => rfl) (setStreamClaim v c)
      rwa [hsource] at hfront

section accepted
variable {s : State} {ws : List StagedWord}

theorem emptiedBy_appliedLists {u : State} (hpool : PoolSound u) (hlists : u.store.lists = s.store.lists) (q : Port) :
    emptiedBy (appliedLists ws s) u q = false :=
  emptiedBy_eq_false hpool (.inl (hlists ▸ claimsLeft_appliedLists (sourceOf_ne_str q) ws s))

theorem covered_appliedLists (hpool : PoolSound s) : Covered (appliedLists ws s) s.store := by
  refine hpool.covered ((cpCount_mono fun h x hx hh => ?_).trans (Nat.le_add_right ..)) fun h hh => ?_
  · exact (holds_appliedLists hh).elim id fun hnew => absurd hnew.1 hx
  · obtain hold | ⟨_, hnew⟩ := holds_appliedLists hh
    · exact hpool.window h hold
    · obtain ⟨v, hv⟩ := Option.isSome_iff_exists.1 hnew
      exact inRun_of_mappedLevel hv

theorem goLive_of_on {x : StreamReceiver} (h : x.record.state ≠ .off) :
    goLive x = { x with record := { x.record with state := .live } } := by
  rw [goLive, if_neg h]

/-- The receiver once its packet has been accepted (R126). -/
abbrev acceptedReceiver (x : StreamReceiver) : StreamReceiver :=
  { x with
    idleArmed := false
    receiver := .muted
    staging := []
    lossRemaining := x.record.lostTimeout
    record := { x.record with state := .live }
    counters := { x.counters with accepted := min 65535 (x.counters.accepted + 1) } }

/-- STREAM_UP, unless the stream was LIVE (R126). -/
def upNotices (left : StreamState) (w : State) : List Addressed :=
  if left = .live then [] else toSubscribers .stream (streamNotice .streamUp (left.code.setWidth 16) w) w

/-- An accepted packet, seen from the idle event: the change, the receiver, STREAM_UP. -/
theorem idleEvent_accepted (hr : s.resetState.lasting = none) (harmed : s.stream.idleArmed = true)
    (hcollecting : s.stream.receiver = .collecting)
    (haccepted : evaluatePacket s.stream.record.width s.stream.staging = .accepted) (hoff : s.stream.record.state ≠ .off)
    {w : State} (hw : w = updStream goLive
      (applyChange (appliedLists s.stream.staging s) noneDone (updStream packetCounted (armIdle false s)))) :
    idleEvent s = raise (upNotices s.stream.record.state w) w := by
  have heq := acceptPacket_eq (armIdle false s) s.stream.staging
  have hlists : appliedLists s.stream.staging (armIdle false s) = appliedLists s.stream.staging s := rfl
  rw [hlists, ← hw] at heq
  have hend : idleEvent s = acceptPacket s.stream.staging (updStream mute (armIdle false s)) := by
    rw [idleEvent_collecting hr harmed hcollecting, endPacket, armIdle_stream]
    simp only [haccepted]
  rw [hend, heq, upNotices, armIdle_stream]
  cases hstate : s.stream.record.state with
  | off => exact absurd hstate hoff
  | waiting => rfl
  | live => rfl
  | lost => rfl

/-- Settles O35: the window's reservation covers the new STR claims, and the claims of the ports are left. -/
theorem acceptedPacketIsApplied : Obligations.AcceptedPacketIsApplied := by
  rintro s ws hr harmed hcollecting rfl hquiet hlength heven hsum hq hpool hordered hsound
  have hoff : s.stream.record.state ≠ .off := fun h => (hsound.collecting hcollecting).1 (hsound.record.off.1 h)
  obtain ⟨u, hu⟩ : ∃ u, u = updStream packetCounted (armIdle false s) := ⟨_, rfl⟩
  obtain ⟨lists, hlists⟩ : ∃ lists, lists = appliedLists s.stream.staging s := ⟨_, rfl⟩
  obtain ⟨w, hw⟩ : ∃ w, w = updStream goLive (applyChange lists noneDone u) := ⟨_, rfl⟩
  obtain ⟨ns, hns⟩ : ∃ ns, ns = upNotices s.stream.record.state w := ⟨_, rfl⟩
  have hidle := idleEvent_accepted hr harmed hcollecting (evaluatePacket_accepted hquiet hlength heven hsum) hoff
    (w := w) (by rw [hw, hlists, hu])
  rw [← hns] at hidle
  have hplain : ∀ q, emptiedBy lists u q = false := fun q => by
    rw [hlists]
    exact emptiedBy_appliedLists (by rw [hu]; exact hpool.congr rfl ⟨rfl, rfl⟩) (by rw [hu]; rfl) q
  have hchanged := changed_applyChange hplain (s := s) (by rw [hu]; exact ⟨rfl, rfl, rfl⟩) (by rw [hu]; rfl) hq
    (by rw [hlists]; exact covered_appliedLists hpool) ns
  have honly := onlyClaims_applyChange hplain []
  have hsessions := applyChange_sessions_plain hplain
  have hcount := applyChange_claimCount lists noneDone u .str
  have hprio : priorityOf (applyChange lists noneDone u) = priorityOf s := by
    rw [applyChange_priority, hu]
    rfl
  have hstream : goLive (applyChange lists noneDone u).stream = acceptedReceiver s.stream := by
    rw [applyChange_stream, hu]
    exact goLive_of_on (x := packetCounted (armIdle false s).stream) hoff
  rw [raise_nil] at honly
  generalize applyChange lists noneDone u = v at *
  have hkept : ControlKept s (idleEvent s) := (idleEvent_acts s).controlKept
  have hdone : Changed lists ns s (idleEvent s) := by
    rw [hidle, hw]
    exact hchanged.transfer ⟨rfl, rfl, rfl⟩ (fun _ h => h.congr rfl rfl) (priorityOf_congr (fun _ => rfl) rfl)
  refine ⟨idleEvent s, rfl, ?_, fun h => ?_, hdone.taken, hkept.ports, ?_⟩
  · rw [hidle, hw, updStream, hstream]
    conv_lhs => rw [honly, hu]
    rfl
  · have hget : (idleEvent s).store.lists.get h = (appliedLists s.stream.staging s).get h := by rw [hdone.lists_eq, hlists]
    have hprioT : priorityOf (idleEvent s) = priorityOf s := by
      rw [hidle, hw, ← hprio]
      exact priorityOf_congr (fun _ => rfl) rfl
    cases hv : mappedLevel s.stream.record s.stream.staging h with
    | none => exact hget.trans (appliedLists_get_none s h hv)
    | some v =>
      rw [appliedLists_get_some s h hv] at hget
      obtain ⟨hclaim, hplace⟩ := applySlot_spec ((listsOrdered_iff s).1 hordered h) v
      simp only [OthersKept, claimOn, PlacesKept, hget, hprioT]
      exact ⟨applySlot_others .., hclaim, hplace⟩
  · have hplaced := hdone.placed
    rw [hns, upNotices, toSubscribers_stream (w := w) (t := idleEvent s) (by rw [hw]; exact hcount) (by rw [hidle]; rfl)
      (by rw [hidle]; rfl)] at hplaced
    exact hplaced

end accepted

/-! ### O36: the loss of the stream (R129, R130, R132) -/

/-- STREAM_LOST (R132). -/
abbrev lostNotices (policy : LossPolicy) (w : State) : List Addressed :=
  toSubscribers .stream (streamNotice .streamLost (policy.code.setWidth 16) w) w

section loss
variable {s : State} (hr : s.resetState.lasting = none) (hlive : s.stream.record.state = .live)
include hr hlive

theorem loss_taken : ¬ (resetLasts s = true ∨ s.stream.record.state ≠ .live) := by
  rw [resetLasts_of_none hr, hlive]
  decide

theorem lossEvent_hold (hpolicy : s.stream.record.lossPolicy = .hold) :
    lossEvent s = raise (lostNotices s.stream.record.lossPolicy (updStream streamGone s)) (updStream streamGone s) := by
  rw [lossEvent, if_neg (loss_taken hr hlive)]
  simp only [hpolicy]
  rfl

theorem lossEvent_release (hpolicy : s.stream.record.lossPolicy = .release) {w : State}
    (hw : w = applyChange (releasedLists .str ⟨s.stream.record.lossFade, 0, false⟩ everywhere s) noneDone (updStream streamGone s)) :
    lossEvent s = raise (lostNotices s.stream.record.lossPolicy w) w := by
  rw [lossEvent, if_neg (loss_taken hr hlive), hw]
  simp only [hpolicy]
  rfl

end loss

/-- Settles O36. -/
theorem lossActsByTheStreamsLossPolicy : Obligations.LossActsByTheStreamsLossPolicy := by
  intro s
  refine ⟨fun h => congrArg Outcome.next (if_pos (h.imp_left resetLasts_of_lasting)), fun hr hlive hq hpool => ?_⟩
  have hacts : ControlKept s (lossEvent s) := (lossEvent_acts s).controlKept
  obtain ⟨u, hu⟩ : ∃ u, u = updStream streamGone s := ⟨_, rfl⟩
  have hpoolu : PoolSound u := by
    rw [hu]
    exact hpool.congr rfl ⟨rfl, rfl⟩
  cases hpolicy : s.stream.record.lossPolicy with
  | hold =>
    have hloss := lossEvent_hold hr hlive hpolicy
    rw [← hu, hpolicy] at hloss
    obtain ⟨ns, hns⟩ : ∃ ns, ns = lostNotices .hold u := ⟨_, rfl⟩
    rw [← hns] at hloss
    rw [lostNotices, toSubscribers_stream (t := lossEvent s) (hpoolu.counts _) (by rw [hloss]; rfl) (by rw [hloss]; rfl)] at hns
    have hstore : (lossEvent s).store = s.store := by
      rw [hloss, hu]
      rfl
    refine ⟨lossEvent s, rfl, ?_, hacts.ports, ⟨hstore, by rw [hloss, hu]; rfl, by rw [hloss, hu]; rfl⟩, ?_⟩
    · rw [hloss, hu]
      rfl
    · rw [changeLeadNotices_self hstore, List.nil_append, ← hns, hloss, hu]
      exact (raise_placed ns (updStream streamGone s) hq).congr rfl rfl
  | release =>
    obtain ⟨lists, hlists⟩ : ∃ lists, lists = releasedLists .str ⟨s.stream.record.lossFade, 0, false⟩ everywhere s := ⟨_, rfl⟩
    have hloss := lossEvent_release hr hlive hpolicy (w := applyChange lists noneDone u) (by rw [hlists, hu])
    have hplain : ∀ q, emptiedBy lists u q = false := fun q => by
      rw [hlists]
      exact emptiedBy_releasedLists hpoolu (by rw [hu]; rfl) _ _ (sourceOf_ne_str q)
    have hchanged := changed_applyChange hplain (s := s) (by rw [hu]; exact ⟨rfl, rfl, rfl⟩) (by rw [hu]; rfl) hq
      (by rw [hlists]; exact hpool.covered_releasedLists ..) (lostNotices s.stream.record.lossPolicy (applyChange lists noneDone u))
    have honly := onlyClaims_applyChange hplain (lostNotices s.stream.record.lossPolicy (applyChange lists noneDone u))
    rw [← hloss] at hchanged honly
    refine ⟨lossEvent s, rfl, ?_, hacts.ports, ⟨releasedOn_of_lists (hchanged.lists_eq.trans hlists), hchanged.taken⟩, ?_⟩
    · rw [hu] at honly
      exact honly
    · have hplaced := hchanged.placed
      rw [lostNotices, toSubscribers_stream (t := lossEvent s) (applyChange_claimCount ..) (by rw [hloss]; rfl)
        (by rw [hloss]; rfl), hpolicy] at hplaced
      exact hplaced

/-! ### O37: CONFIG_STREAM (R22, R133 to R135) -/

/-- The counters after a reconfiguration: a packet in assembly is discarded (R135). -/
def reconfiguredCounters (x : StreamReceiver) : StreamCounters :=
  match x.receiver with
  | .muted => x.counters
  | .collecting => { x.counters with reconfigured := min 65535 (x.counters.reconfigured + 1) }

theorem reconfigure_eq (rec : StreamRecord) (x : StreamReceiver) : reconfigure rec x =
    { x with
      record := rec
      receiver := .muted
      staging := []
      lossRemaining := 0
      idleArmed := false
      awaitsHigh := true
      counters := reconfiguredCounters x } := by
  rw [reconfigure, reconfiguredCounters]
  cases x.receiver <;> rfl

section configStream
variable {p : Port} {r : Request} {s : State} {x : StreamRecord}

/-- The record that the fields of the body name (R134). -/
theorem streamRecordOf_eq (hpriority : x.priority = s.stream.record.priority)
    (hstate : x.state = (if x.count = 0 then .off else .waiting)) (hid : r.byte 0 = x.id) (hbase : r.num 1 = x.slotBase)
    (hfirst : r.num 2 = x.first) (hcount : r.num 3 = x.count) (hdivisor : r.num16 6 = x.divisor)
    (htimeout : r.num16 8 = x.lostTimeout) (hfade : r.num16 10 = x.lossFade) :
    streamRecordOf r x.width x.lossPolicy s.stream.record = x := by
  rw [streamRecordOf, hid, hbase, hfirst, hcount, hdivisor, htimeout, hfade, ← hpriority, ← hstate]

/-- The state after the window has moved (R22, R134). -/
def windowMoved (x : StreamRecord) (s : State) : State :=
  { applyChange (withoutStream s) noneDone (updStream (reconfigure x) s) with
    store := { (applyChange (withoutStream s) noneDone (updStream (reconfigure x) s)).store with
      free := s.store.free + s.stream.record.count - x.count
      reservedUnused := x.count } }

/-- The body of the response: state, claims removed, free entries, reservation (R134). -/
abbrev windowBody (x : StreamRecord) (s : State) : List Byte :=
  [x.state.code, byteOf (countClaims s.store.lists .str), byteOf (s.store.free + s.stream.record.count - x.count), byteOf x.count]

theorem runConfigStream_eq (hwidth : r.byte 4 = x.width.code) (hpolicy : r.byte 5 = x.lossPolicy.code)
    (hcount : r.num 3 = x.count) (hrange : streamInRange r = true)
    (hrecord : streamRecordOf r x.width x.lossPolicy s.stream.record = x) : runConfigStream p r s =
    if s.store.free + s.stream.record.count < x.count then
      { status := .noClaimSpace, body := [byteOf x.count, byteOf (s.store.free + s.stream.record.count)], state := s }
    else answer (windowBody x s) (windowMoved x s) := by
  rw [runConfigStream, hwidth, hpolicy, widthOfCode_code, lossPolicyOfCode_code]
  dsimp only
  rw [if_neg (by simp [hrange]), hrecord, hcount]
  rfl

end configStream

theorem withoutStream_count (s : State) (src : Source) :
    countClaims (withoutStream s) src = if src = .str then 0 else countClaims s.store.lists src := by
  split
  · next h =>
    rw [h]
    exact countChannels_zero.2 fun c => by simp
  · next h => exact (claimsLeft_withoutStream h s).count

/-- The window has moved: what CONFIG_STREAM leaves of the claims, the pool, the levels and the notices. -/
structure WindowMoved (x : StreamRecord) (s t : State) : Prop where
  lists : t.store.lists = withoutStream s
  free : t.store.free = s.store.free + s.stream.record.count - x.count
  reserved : t.store.reservedUnused = x.count
  counts : ∀ src, claimCount t src = countClaims (withoutStream s) src
  recomputed : Recomputed s t
  timer : TimerStarted s t
  placed : Placed (changeLeadNotices s t) s t

section windowMoved
variable {x : StreamRecord} {s : State} (hpool : PoolSound s)
include hpool

/-- No port's claim goes with the window. -/
theorem emptiedBy_withoutStream (q : Port) : emptiedBy (withoutStream s) (updStream (reconfigure x) s) q = false :=
  emptiedBy_eq_false (u := s) hpool (.inl (claimsLeft_withoutStream (sourceOf_ne_str q) s))

theorem windowMoved_onlyClaims : OnlyClaims (updStream (reconfigure x) s) (windowMoved x s) := by
  have h := onlyClaims_applyChange (emptiedBy_withoutStream (x := x) hpool) []
  rw [raise_nil] at h
  unfold windowMoved
  generalize applyChange (withoutStream s) noneDone (updStream (reconfigure x) s) = w at h ⊢
  unfold OnlyClaims at h ⊢
  conv_lhs => rw [h]

theorem windowMoved_done (hq : QueuesBounded s) : WindowMoved x s (windowMoved x s) := by
  have hcovered : Covered (withoutStream s) s.store := hpool.covered_of_fewer fun h src hh => by
    rw [withoutStream_get] at hh
    exact (shrinks_removeClaim .str _).holds hh
  have hchanged := changed_applyChange (emptiedBy_withoutStream (x := x) hpool) (s := s) ⟨rfl, rfl, rfl⟩ rfl hq hcovered []
  have hcounts := applyChange_claimCount (withoutStream s) noneDone (updStream (reconfigure x) s)
  obtain ⟨hrecomputed, htimer, _⟩ := hchanged.taken
  have hplaced := hchanged.placed
  have hlists := hchanged.lists_eq
  rw [raise_nil, List.append_nil] at hplaced
  rw [raise_nil] at hrecomputed htimer hlists
  unfold windowMoved
  generalize applyChange (withoutStream s) noneDone (updStream (reconfigure x) s) = w at *
  exact ⟨hlists, rfl, rfl, fun src => (hcounts src).trans (by rw [hlists]),
    ⟨hrecomputed.config, hrecomputed.kept, hrecomputed.anew⟩, htimer, hplaced.congr rfl rfl⟩

end windowMoved

theorem WindowMoved.complete {x : StreamRecord} {s : State} {y : Reply} (h : WindowMoved x s y.state) (p : Port) (r : Request) :
    WindowMoved x s (complete p r y) := by
  obtain ⟨hstore, hresolver, hfades⟩ := complete_sameClaims p r y
  have hprio := complete_priority p r y
  refine ⟨by rw [hstore, h.lists], by rw [hstore, h.free], by rw [hstore, h.reserved], fun src => ?_, ⟨?_, ?_, ?_⟩, ?_, ?_⟩
  · rw [claimCount, hstore]
    exact h.counts src
  · rw [hresolver, h.recomputed.config]
  · intro c hc
    rw [ListSame, hstore] at hc
    rw [hresolver, h.recomputed.kept c hc]
  · intro c hc
    rw [ListSame, hstore] at hc
    rw [hresolver, hstore, hprio, h.recomputed.anew c hc]
  · rw [TimerStarted, hfades, hstore]
    exact h.timer
  · rw [changeLeadNotices_congr (.refl s) ⟨hstore, hresolver, hfades⟩]
    exact h.placed.complete p r

/-- Settles O37: the change to the lists is taken under the new record, whose priority is the old one; then the reservation moves. -/
theorem configStreamMovesTheWindow : Obligations.ConfigStreamMovesTheWindow := by
  rintro p r s x available ha hpriority hstate hid hbase hfirst hcount hwidth hpolicy hdivisor htimeout hfade hnot255 hle63 hle64
    hwindow hslots hdivisorMax hlow hhigh rfl
  have hrange : streamInRange r = true := by
    simp only [streamInRange, Bool.and_eq_true, decide_eq_true_eq]
    rw [hid, hbase, hfirst, hcount, hdivisor, htimeout]
    exact ⟨⟨⟨⟨⟨⟨⟨hnot255, hle63⟩, hle64⟩, hwindow⟩, hslots⟩, hdivisorMax⟩, hlow⟩, hhigh⟩
  have hrun := runConfigStream_eq (p := p) (s := s) hwidth hpolicy hcount hrange
    (streamRecordOf_eq hpriority hstate hid hbase hfirst hcount hdivisor htimeout hfade)
  refine ⟨fun hspace => ?_, fun hspace hq hpool => ?_⟩
  · rw [if_pos hspace] at hrun
    exact ha.onlyAnswered rfl hrun
  · rw [if_neg (not_lt.2 hspace)] at hrun
    have hacts : ControlKept s (runConfigStream p r s).state := runConfigStream_acts.controlKept
    rw [hrun] at hacts
    have hdone := windowMoved_done (x := x) hpool hq
    have heq := (windowMoved_onlyClaims (x := x) hpool).complete p r
      (y := answer (windowBody x s) (windowMoved x s))
    have hcompletes := ha.completes (c := .configStream) rfl hrun hacts
    have ht := WindowMoved.complete (y := answer (windowBody x s) (windowMoved x s)) hdone p r
    rw [answer] at heq hcompletes ht
    generalize complete p r _ = t at heq hcompletes ht
    refine ⟨t, hcompletes, fun h => ?_, ht.free, ht.reserved, fun src => ?_, ht.recomputed, ht.timer, ht.placed, ?_⟩
    · rw [ht.lists, withoutStream_get]
    · rw [ht.counts, withoutStream_count, hpool.counts]
    · rw [updStream, reconfigure_eq] at heq
      exact heq

end Sys2Proof.Machine
end

section
/-! PROOFS. The words of the line: how the words of a packet map to channels (O32), and how words reach the packet logic (O33). -/

namespace Sys2Proof.Machine
open Sys2Proof Host

/-! ### O32: slots and the window (R125) -/

theorem wideLevels_getElem? (ds : List Byte) (i : Nat) : (wideLevels ds)[i]? =
    (ds[2 * i]?).bind fun hi => (ds[2 * i + 1]?).map fun lo => word16 hi lo := by
  induction ds using wideLevels.induct generalizing i with
  | case1 hi lo ds ih =>
    cases i with
    | zero => rfl
    | succ i =>
      rw [wideLevels, List.getElem?_cons_succ, ih, show 2 * (i + 1) = 2 * i + 1 + 1 by omega]
      simp only [List.getElem?_cons_succ]
  | case2 ds hds =>
    match ds, hds with
    | [], _ => simp [wideLevels]
    | [d], _ => cases i <;> simp [wideLevels]
    | d :: e :: ds, hds => exact absurd rfl (hds d e ds)

section packet
variable {ws : List StagedWord} {data : Nat → Byte} (hlength : 3 ≤ ws.length) (hdata : ∀ i w, ws[i]? = some w → data i = w.data)
include hlength hdata

theorem firstSlot_eq : firstSlot ws = (data 1).toNat := by
  match ws, hlength with
  | a :: w :: ws, _ => rw [hdata 1 w rfl]; rfl

/-- The level words of a packet stand behind its first two words and before the check. -/
theorem levelWord_eq (i : Nat) : (((ws.drop 2).dropLast).map (·.data))[i]? =
    if i < ws.length - 3 then some (data (2 + i)) else none := by
  rw [List.getElem?_map, List.getElem?_dropLast, List.length_drop, List.getElem?_drop]
  by_cases hi : i < ws.length - 3
  · have hw : 2 + i < ws.length := by omega
    rw [if_pos hi, if_pos (by omega), List.getElem?_eq_getElem hw, Option.map_some, hdata _ _ (List.getElem?_eq_getElem hw)]
  · rw [if_neg hi, if_neg (by omega), Option.map_none]

theorem narrowLevel_iff {i : Nat} {v : Level} : (packetLevels .narrow ws)[i]? = some v ↔
    i < ws.length - 3 ∧ v.toNat = (data (2 + i)).toNat * 257 := by
  have hlevel : (packetLevels .narrow ws)[i]? =
      (if i < ws.length - 3 then some (data (2 + i)) else none).map fun d => BitVec.ofNat 16 (d.toNat * 257) := by
    rw [← levelWord_eq hlength hdata, packetLevels, narrowLevels, List.getElem?_map]
  have hbyte := (data (2 + i)).isLt
  rw [hlevel]
  by_cases hi : i < ws.length - 3
  · rw [if_pos hi, Option.map_some, Option.some.injEq, ← BitVec.toNat_inj, BitVec.toNat_ofNat, Nat.mod_eq_of_lt (by omega)]
    exact ⟨fun h => ⟨hi, h.symm⟩, fun h => h.2.symm⟩
  · simp [hi]

theorem wideLevel_iff (heven : (ws.length - 3) % 2 = 0) {i : Nat} {v : Level} : (packetLevels .wide ws)[i]? = some v ↔
    i < (ws.length - 3) / 2 ∧ v.toNat = (data (2 + 2 * i)).toNat * 256 + (data (3 + 2 * i)).toNat := by
  rw [packetLevels, wideLevels_getElem?, levelWord_eq hlength hdata, levelWord_eq hlength hdata]
  by_cases hi : i < (ws.length - 3) / 2
  · have hword : ∀ hi lo : Byte, (word16 hi lo).toNat = hi.toNat * 256 + lo.toNat := fun hi lo => by
      rw [word16, BitVec.toNat_append, ← Nat.shiftLeft_add_eq_or_of_lt lo.isLt, Nat.shiftLeft_eq]
    rw [if_pos (by omega), if_pos (by omega), Option.bind_some, Option.map_some, Option.some.injEq, ← BitVec.toNat_inj, hword,
      show 2 + (2 * i + 1) = 3 + 2 * i by omega]
    exact ⟨fun h => ⟨hi, h.symm⟩, fun h => h.2.symm⟩
  · rw [if_neg (by omega : ¬ 2 * i + 1 < ws.length - 3)]
    constructor
    · intro h
      cases hd : (if 2 * i < ws.length - 3 then some (data (2 + 2 * i)) else none) <;> rw [hd] at h <;> cases h
    · exact fun h => absurd h.1 hi

end packet

/-- A slot of the packet maps to the channel at its place in the window (R125). -/
theorem mappedLevel_iff {rec : StreamRecord} {ws : List StagedWord} {h : Chan} {v : Level} : mappedLevel rec ws h = some v ↔ ∃ i,
    rec.slotBase ≤ firstSlot ws + i ∧ firstSlot ws + i < rec.slotBase + rec.count ∧
      h.val = rec.first + (firstSlot ws + i - rec.slotBase) ∧ (packetLevels rec.width ws)[i]? = some v := by
  have hinRun := inRun_iff rec.first rec.count h
  unfold mappedLevel
  dsimp only
  constructor
  · intro hv
    split at hv
    · next hrun =>
      split at hv
      · next hfirst =>
        obtain ⟨hlow, hhigh⟩ := hinRun.1 hrun
        exact ⟨_, by omega, by omega, by omega, hv⟩
      · cases hv
    · cases hv
  · rintro ⟨i, hbase, hcount, hh, hv⟩
    rw [if_pos (hinRun.2 ⟨by omega, by omega⟩), if_pos (by omega), ← hv]
    congr 1
    omega

/-- Settles O32. -/
theorem slotsMapThroughTheWindow : Obligations.SlotsMapThroughTheWindow := by
  intro rec ws data h v hlength hdata heven
  rw [mappedLevel_iff, firstSlot_eq hlength hdata]
  cases hwidth : rec.width with
  | narrow => simp only [narrowLevel_iff hlength hdata]
  | wide => simp only [wideLevel_iff hlength hdata (heven hwidth)]

/-! ### O33: samples and words (R118, R119) -/

theorem vote_eq (b : BitSamples) :
    vote b = decide (2 ≤ (b.getLsbD 7).toNat + (b.getLsbD 8).toNat + (b.getLsbD 9).toNat) := by
  unfold vote
  cases b.getLsbD 7 <;> cases b.getLsbD 8 <;> cases b.getLsbD 9 <;> rfl

theorem noisy_eq (b : BitSamples) :
    noisy b = decide (b.getLsbD 7 ≠ b.getLsbD 8 ∨ b.getLsbD 8 ≠ b.getLsbD 9) := by
  unfold noisy
  cases b.getLsbD 7 <;> cases b.getLsbD 8 <;> cases b.getLsbD 9 <;> rfl

section lineWord
variable {w : WordSamples}

theorem lineWord_falseStart (h : vote w.start = true) : lineWord w = .falseStart := if_pos h

theorem lineWord_framing (h : vote w.start = false) (hstop : vote w.stop = false) : lineWord w = .framing := by
  rw [lineWord, if_neg (by simp [h]), if_neg (by simp [hstop])]

theorem lineWord_word (h : vote w.start = false) (hstop : vote w.stop = true) :
    lineWord w = .word (wordData w) (vote w.mark) (wordNoise w) := by
  rw [lineWord, if_neg (by simp [h]), if_pos hstop]

theorem wordNoise_iff : wordNoise w = true ↔
    noisy w.start = true ∨ (∃ i, noisy (w.data.get i) = true) ∨ noisy w.mark = true ∨ noisy w.stop = true := by
  rw [← any_noisy_iff, wordNoise]
  simp only [Bool.or_eq_true, or_assoc]

end lineWord

/-! ### The idle flag and the end of a packet -/

section armIdle
variable (b : Bool) (s : State)

theorem armIdle_priority : priorityOf (armIdle b s) = priorityOf s := priorityOf_congr (fun _ => rfl) rfl

theorem commit_armIdle (lists : Vector (List Claim) 64) (done : Chan → List Addressed) :
    commit lists done (armIdle b s) = (armIdle b (commit lists done s).1, (commit lists done s).2) := by
  refine Prod.ext ?_ ?_
  · rw [commit_state, commit_state]
    unfold committedResolver
    rw [armIdle_priority]
    rfl
  · rw [commit_notices, commit_notices]
    unfold committedNotices committedResolver
    rw [armIdle_priority]
    rfl

theorem reportEmptied_armIdle (p : Port) (x : State × List Addressed) :
    reportEmptied (armIdle b s) p (armIdle b x.1, x.2) = (armIdle b (reportEmptied s p x).1, (reportEmptied s p x).2) := by
  by_cases h : 0 < claimCount s (sourceOf p) ∧ claimCount x.1 (sourceOf p) = 0 ∧ (x.1.sessions.get p).state = .detaching
  · have hthis : reportEmptied s p x = _ := if_pos h
    rw [hthis]
    exact if_pos h
  · have hthis : reportEmptied s p x = _ := if_neg h
    rw [hthis]
    exact if_neg h

/-- No change of the claims reads the idle flag. -/
theorem applyChange_armIdle (lists : Vector (List Claim) 64) (done : Chan → List Addressed) :
    applyChange lists done (armIdle b s) = armIdle b (applyChange lists done s) := by
  rw [applyChange_eq, applyChange_eq, reported, commit_armIdle, reportEmptied_armIdle, reportEmptied_armIdle, reportEmptied_armIdle]
  rfl

theorem acceptPacket_armIdle (ws : List StagedWord) :
    acceptPacket ws (updStream mute (armIdle b s)) = armIdle b (acceptPacket ws (updStream mute s)) := by
  have hchange := applyChange_armIdle b (updStream packetCounted s) (appliedLists ws s) noneDone
  have hcounted : updStream packetCounted (armIdle b s) = armIdle b (updStream packetCounted s) := rfl
  have hlists : appliedLists ws (armIdle b s) = appliedLists ws s := rfl
  rw [acceptPacket_eq, acceptPacket_eq, hlists, hcounted, hchange]
  rfl

theorem endPacketIfAny_armIdle : endPacketIfAny (armIdle b s) = armIdle b (endPacketIfAny s) := by
  unfold endPacketIfAny
  rw [armIdle_stream]
  cases s.stream.receiver with
  | muted => rfl
  | collecting =>
    simp only [endPacket, armIdle_stream]
    cases evaluatePacket s.stream.record.width s.stream.staging with
    | accepted => exact acceptPacket_armIdle b s s.stream.staging
    | _ => rfl

end armIdle

/-- After the end of a packet the receiver is MUTED; what it waits for has not changed (R123). -/
theorem endPacketIfAny_muted (s : State) : (endPacketIfAny s).stream.receiver = .muted ∧
    (endPacketIfAny s).stream.awaitsHigh = s.stream.awaitsHigh ∧ (endPacketIfAny s).resetState = s.resetState := by
  unfold endPacketIfAny
  cases hreceiver : s.stream.receiver with
  | muted => exact ⟨hreceiver, rfl, rfl⟩
  | collecting =>
    dsimp only
    unfold endPacket
    dsimp only
    cases evaluatePacket s.stream.record.width s.stream.staging with
    | accepted =>
      dsimp only
      rw [acceptPacket_eq, raise_stream, raise_resetState, updStream_stream, updStream_resetState, applyChange_stream,
        applyChange_resetState]
      exact ⟨rfl, rfl, rfl⟩
    | _ => exact ⟨rfl, rfl, rfl⟩

/-! ### The rows of the line -/

section rows
variable {w : WordSamples} {s : State} {d : Byte} {noise : Bool}

theorem rows_notTaken (h : takesFall w.lead s = false) :
    exec (.markWord w) s = .next s ∧ exec (.streamWord w) s = .next s ∧ exec (.framingError w) s = .next s :=
  ⟨congrArg Outcome.next (if_pos h), congrArg Outcome.next (if_pos h), congrArg Outcome.next (if_pos h)⟩

variable (hfall : takesFall w.lead s = true)
include hfall

theorem markWord_eq (hw : lineWord w = .word d true noise) :
    markWord w s = updStream (evaluateHeader d noise) (armIdle true (seek false (endPacketIfAny s))) := by
  rw [markWord, if_neg (by simp [hfall]), hw]

theorem streamWord_eq (hw : lineWord w = .word d false noise) :
    streamWord w s = armIdle true (seek false (updStream (appendWord d noise) s)) := by
  rw [streamWord, if_neg (by simp [hfall]), hw]

theorem framingError_eq (hw : lineWord w = .framing) :
    framingError w s = armIdle false (seek true (updStream framingDiscard s)) := by
  rw [framingError, if_neg (by simp [hfall]), hw]

/-- A mark word in COLLECTING does what the idle event and then a mark word in MUTED do (R121, R123). -/
theorem markWord_afterIdle (hr : s.resetState.lasting = none) (hw : lineWord w = .word d true noise) :
    ∃ u, exec .idle (armIdle true s) = .next u ∧ u.stream.receiver = .muted ∧ exec (.markWord w) s = exec (.markWord w) u := by
  have hidle : idleEvent (armIdle true s) = armIdle false (endPacketIfAny s) := by
    rw [idleEvent_armed (s := armIdle true s) hr rfl, ← endPacketIfAny_armIdle]
    rfl
  obtain ⟨hmuted, hawaits, hreset⟩ := endPacketIfAny_muted s
  refine ⟨_, congrArg Outcome.next hidle, hmuted, congrArg Outcome.next ?_⟩
  have hfall' : takesFall w.lead (armIdle false (endPacketIfAny s)) = true := by
    rw [takesFall_iff] at hfall ⊢
    rw [armIdle_resetState, armIdle_stream, hreset]
    dsimp only
    rwa [hawaits]
  have hnone : endPacketIfAny (armIdle false (endPacketIfAny s)) = armIdle false (endPacketIfAny s) := by
    rw [endPacketIfAny, armIdle_stream]
    simp only [hmuted]
  rw [markWord_eq hfall hw, markWord_eq hfall' hw, hnone]
  rfl

end rows

/-- The receiver after a good word without mark bit (R122). -/
theorem appendWord_taken (d : Byte) (noise : Bool) (x : StreamReceiver) :
    { appendWord d noise x with idleArmed := true, awaitsHigh := false } =
      match x.receiver with
      | .muted => { x with idleArmed := true, awaitsHigh := false }
      | .collecting =>
        if x.staging.length < 131 then
          { x with idleArmed := true, awaitsHigh := false, staging := x.staging ++ [{ data := d, noise := noise }] }
        else
          { x with
            idleArmed := true
            awaitsHigh := false
            receiver := .muted
            staging := []
            counters := { x.counters with overlong := min 65535 (x.counters.overlong + 1) } } := by
  obtain ⟨record, receiver, staging, counters, lossRemaining, idleArmed, awaitsHigh⟩ := x
  cases receiver with
  | muted => rfl
  | collecting =>
    dsimp only [appendWord]
    by_cases h : staging.length < 131
    · simp only [show staging.length < Config.stagingWords from h, h, if_true]
    · simp only [show ¬ staging.length < Config.stagingWords from h, h, if_false]
      rfl

/-- The receiver after a framing error (R119, R122). -/
theorem framingDiscard_taken (x : StreamReceiver) : { framingDiscard x with idleArmed := false, awaitsHigh := true } =
    match x.receiver with
    | .muted => { x with idleArmed := false, awaitsHigh := true }
    | .collecting =>
      { x with
        idleArmed := false
        awaitsHigh := true
        receiver := .muted
        staging := []
        counters := { x.counters with framing := min 65535 (x.counters.framing + 1) } } := by
  obtain ⟨record, receiver, staging, counters, lossRemaining, idleArmed, awaitsHigh⟩ := x
  cases receiver <;> rfl

/-- A false start ends the wait for a sample at 1, if it is one the receiver takes (R119). -/
theorem falseStart_eq {s : State} (hr : s.resetState.lasting = none) (f : StartSamples) : falseStart f s = { s with
    stream := { s.stream with
      awaitsHigh := if true ∈ f.lead ∧ vote f.start = true then false else s.stream.awaitsHigh } } := by
  have htaken : (takesFall f.lead s && vote f.start) = true ↔
      (s.stream.awaitsHigh = false ∨ true ∈ f.lead) ∧ vote f.start = true := by
    rw [Bool.and_eq_true, takesFall_iff]
    simp only [hr, true_and]
  by_cases hends : true ∈ f.lead ∧ vote f.start = true
  · rw [falseStart, if_pos (htaken.2 ⟨.inr hends.1, hends.2⟩), if_pos hends]
    rfl
  · rw [if_neg hends, falseStart]
    split
    · next h =>
      obtain ⟨hfall, hvote⟩ := htaken.1 h
      have hawaits : s.stream.awaitsHigh = false := hfall.resolve_right fun hlead => hends ⟨hlead, hvote⟩
      rw [seek, updStream, hawaits]
    · rfl

/-- Settles O33. -/
theorem wordsReachThePacketLogic : Obligations.WordsReachThePacketLogic := by
  intro maj split hmaj hsplit
  obtain rfl : maj = vote := by rw [hmaj]; exact funext fun b => (vote_eq b).symm
  obtain rfl : split = noisy := by rw [hsplit]; exact funext fun b => (noisy_eq b).symm
  refine ⟨fun w => ⟨lineWord_falseStart, lineWord_framing, fun hstart hstop =>
    ⟨_, _, lineWord_word hstart hstop, wordData_getLsbD w, wordNoise_iff⟩⟩, fun s w d noise hr => ⟨fun hawaits hlead => ?_,
    fun hfall => ?_, fun f => ?_⟩⟩
  · refine rows_notTaken ?_
    rw [Bool.eq_false_iff, Ne, takesFall_iff]
    rintro ⟨_, h | h⟩
    · rw [hawaits] at h
      cases h
    · exact hlead h
  · have htaken : takesFall w.lead s = true := (takesFall_iff _ _).2 ⟨hr, hfall⟩
    refine ⟨fun hw hmuted => congrArg Outcome.next ?_, fun hw _ => markWord_afterIdle htaken hr hw,
      fun hw => congrArg Outcome.next ?_, fun hw => congrArg Outcome.next ?_⟩
    · have hnone : endPacketIfAny s = s := by
        rw [endPacketIfAny]
        simp only [hmuted]
      rw [markWord_eq htaken hw, hnone, updStream, evaluateHeader]
      simp only [armIdle_stream, seek_stream, mute, ← hmuted]
      split <;> rfl
    · rw [streamWord_eq htaken hw]
      exact congrArg (fun x => { s with stream := x }) (appendWord_taken d noise s.stream)
    · rw [framingError_eq htaken hw]
      exact congrArg (fun x => { s with stream := x }) (framingDiscard_taken s.stream)
  · exact congrArg Outcome.next (falseStart_eq hr f)

end Sys2Proof.Machine
end

section
/-! PROOFS. The Output Generator: holds (O39), the frame start and its pulses (O41, O42), the pins (O43). -/

namespace Sys2Proof.Machine
open Sys2Proof Host

/-! ### O39: holds (R146 to R149) -/

theorem holdFlagCount_eq (y : PerPort Hold) : holdFlagCount y = allPorts.countP fun q => (y.get q).flag := by
  simp only [holdFlagCount, allPorts, List.countP_cons, List.countP_nil, PerPort.get]
  cases y.cp0.flag <;> cases y.cp1.flag <;> cases y.cp2.flag <;> rfl

theorem setHold_eq (limit : Nat) (tag : Byte) (x : Hold) : setHold limit tag x =
    if limit = 0 then { x with flag := true, tag := tag, timer := none }
    else { flag := true, tag := tag, timer := some limit, startedLimit := limit } := rfl

/-- The answer of a request that changes the port's hold alone. -/
theorem Admitted.changesHold {k : Kind} {run : Port → Request → State → Reply} {c : Instr} {p : Port} {r : Request} {s : State}
    {x : Hold} {bytes : List Byte} (ha : Admitted k p r s) (hexec : exec c s = .next (execute k run s))
    (hkept : ControlKept s (run p r s).state)
    (hrun : run p r s = answer (bytes ++ [byteOf (holdFlagCount (updHold p (fun _ => x) s).output.holds)]) (updHold p (fun _ => x) s)) :
    ∃ t, Completes c p r .ok (bytes ++ [byteOf (allPorts.countP fun q => (t.output.holds.get q).flag)]) s t ∧ NoNotice s t ∧
      t = { s with
        ports := t.ports, executor := t.executor, output := { s.output with holds := s.output.holds.set p x } } := by
  rw [hrun] at hkept
  have hcompletes := ha.completes hexec hrun hkept
  refine ⟨complete p r (answer (bytes ++ [byteOf (holdFlagCount (updHold p (fun _ => x) s).output.holds)])
    (updHold p (fun _ => x) s)), ?_, (noNotice_of_ports rfl).complete p r, complete_eq p r _⟩
  rw [← holdFlagCount_eq, complete_output]
  exact hcompletes

/-- Settles O39. -/
theorem holdsAreSetClearedAndExpire : Obligations.HoldsAreSetClearedAndExpire := by
  rintro p r s x flags rfl rfl
  refine ⟨fun ha => ?_, fun ha => ?_, fun h => congrArg Outcome.next (if_pos (h.imp_left resetLasts_of_lasting)),
    fun hr htimer hq => ?_⟩
  · rw [← setHold_eq]
    exact ha.changesHold rfl (runHold_acts (ha.attached (by decide))).controlKept rfl
  · exact ha.changesHold (bytes := []) rfl runUnhold_acts.controlKept rfl
  · have htaken : ¬ (resetLasts s = true ∨ (s.output.holds.get p).timer = none) := by
      rw [resetLasts_of_none hr]
      simp [htimer]
    refine ⟨_, congrArg Outcome.next (if_neg htaken), rfl, raise_onlyNotices _ (clearHold p s), ?_⟩
    dsimp only
    rw [← holdFlagCount_eq]
    have htag : (clearHold p s).output.holds.get p = { s.output.holds.get p with flag := false, timer := none } := by
      rw [clearHold_output, PerPort.get_set, if_pos rfl]
    have hnotice : holdExpiredNotice p (clearHold p s) =
        { kind := .holdExpired, subject := portCode p, item := 0xFF, tag := (s.output.holds.get p).tag,
          value := BitVec.ofNat 16 (s.output.holds.get p).startedLimit,
          extra := BitVec.ofNat 16 (holdFlagCount (clearHold p s).output.holds) } := by
      rw [holdExpiredNotice, htag]
    rw [hnotice]
    exact (raise_placed _ (clearHold p s) hq).congr rfl rfl

/-! ### O41, O42: the frame start (R141 to R144) -/

theorem anyHold_eq (y : PerPort Hold) : anyHold y = decide (∃ p ∈ allPorts, (y.get p).flag = true) := by
  rw [Bool.eq_iff_iff, decide_eq_true_iff]
  simp only [anyHold, Bool.or_eq_true]
  constructor
  · rintro ((h | h) | h)
    · exact ⟨.cp0, mem_allPorts _, h⟩
    · exact ⟨.cp1, mem_allPorts _, h⟩
    · exact ⟨.cp2, mem_allPorts _, h⟩
  · rintro ⟨p, _, h⟩
    cases p
    · exact .inl (.inl h)
    · exact .inl (.inr h)
    · exact .inr h

section frame
variable (s : State) (h : Chan)

theorem frameStart_active : (frameStart s).output.active.get h =
    if anyHold s.output.holds then s.output.active.get h else (s.resolver.resolved.get h).level := by
  simp only [frameStart]
  split
  · rfl
  · rw [get_ofFn]

theorem frameStart_enable : (frameStart s).output.appliedEnable.get h = (s.resolver.config.get h).enabled := get_ofFn ..

theorem frameStart_polarity : (frameStart s).output.appliedPolarity.get h = (s.resolver.config.get h).polarity := get_ofFn ..

theorem frameStart_accumulator : (frameStart s).output.accumulator.get h =
    if (s.resolver.config.get h).enabled then carried (s.output.accumulator.get h) ((frameStart s).output.active.get h) else 0 := by
  rw [← frameStart_enable]
  exact get_ofFn ..

theorem frameStart_pulse : (frameStart s).output.pulse.get h =
    if (s.resolver.config.get h).enabled then pulseUnits (s.output.accumulator.get h) ((frameStart s).output.active.get h) else 0 := by
  rw [← frameStart_enable]
  exact get_ofFn ..

end frame

theorem frameEvent_running {s : State} (hr : s.resetState.lasting = none) : frameEvent s = frameStart s :=
  if_neg (by rw [resetLasts_of_none hr]; decide)

/-- Settles O41. -/
theorem frameStartShapesThePulses : Obligations.FrameStartShapesThePulses := by
  intro s
  refine ⟨fun hr => congrArg Outcome.next (if_pos (resetLasts_of_lasting hr)), fun hr => ?_⟩
  refine ⟨frameStart s, anyHold s.output.holds, congrArg Outcome.next (frameEvent_running hr), anyHold_eq _,
    fun h => ⟨frameStart_active s h, frameStart_enable s h, frameStart_polarity s h, ?_⟩, rfl⟩
  rw [frameStart_accumulator, frameStart_pulse]
  generalize (frameStart s).output.active.get h = l
  cases henabled : (s.resolver.config.get h).enabled with
  | false => exact ⟨rfl, rfl⟩
  | true =>
    refine ⟨wholeUnits l, leftOver l, _, (Nat.div_add_mod _ 16).symm, Nat.mod_lt _ (by decide), rfl, ?_⟩
    simp only [if_true, carried, pulseUnits]
    split <;> exact ⟨rfl, rfl⟩

/-- A frame's pulse and what it leaves in the accumulator make up the level and what was there (R143). -/
theorem pulse_balance (acc : Nat) (l : Level) : 16 * pulseUnits acc l + carried acc l = l.toNat + acc := by
  have hsplit := Nat.div_add_mod l.toNat 16
  unfold pulseUnits carried wholeUnits leftOver
  split <;> omega

/-- Settles O42: sixteen balances add up, and an accumulator is below 16. -/
theorem sixteenFramesGiveTheLevel : Obligations.SixteenFramesGiveTheLevel := by
  intro before after h L hframes hbetween hstart
  have hframe : ∀ i, i < 16 → (after i).output.pulse.get h = pulseUnits ((before i).output.accumulator.get h) L ∧
      (after i).output.accumulator.get h = carried ((before i).output.accumulator.get h) L := fun i hi => by
    obtain ⟨hr, hexec, henabled, hlevel⟩ := hframes i hi
    have hafter : frameStart (before i) = after i := by
      rw [← frameEvent_running hr]
      exact Outcome.next.inj hexec
    have hpulse := frameStart_pulse (before i) h
    have hacc := frameStart_accumulator (before i) h
    rw [hafter, hlevel, if_pos henabled] at hpulse hacc
    exact ⟨hpulse, hacc⟩
  have hsum : ∀ n, n ≤ 15 → 16 * ((List.range (n + 1)).map fun i => (after i).output.pulse.get h).sum +
      (after n).output.accumulator.get h = (n + 1) * L.toNat + (before 0).output.accumulator.get h ∧
      (after n).output.accumulator.get h ≤ 15 := by
    intro n hn
    induction n with
    | zero =>
      obtain ⟨hpulse, hacc⟩ := hframe 0 (by decide)
      have hbalance := pulse_balance ((before 0).output.accumulator.get h) L
      have hle := carried_le hstart L
      rw [Nat.zero_add, List.range_one, List.map_singleton, List.sum_singleton, hpulse, hacc, Nat.one_mul]
      exact ⟨hbalance, hle⟩
    | succ n ih =>
      obtain ⟨hsum, hle⟩ := ih (by omega)
      obtain ⟨hpulse, hacc⟩ := hframe (n + 1) (by omega)
      rw [hbetween n (by omega)] at hpulse hacc
      have hbalance := pulse_balance ((after n).output.accumulator.get h) L
      have hle' := carried_le hle L
      rw [List.range_succ, List.map_append, List.sum_append, List.map_singleton, List.sum_singleton, hpulse, hacc]
      refine ⟨?_, hle'⟩
      rw [Nat.add_mul, Nat.one_mul]
      omega
  obtain ⟨htotal, hle⟩ := hsum 15 (by decide)
  have hthis : 16 * ((List.range 16).map fun i => (after i).output.pulse.get h).sum + (after 15).output.accumulator.get h =
    16 * L.toNat + (before 0).output.accumulator.get h := htotal
  omega

/-! ### O43: the pins (R144, R153, R166) -/

/-- The units of a pulse of `n` units that begins at unit `k` and wraps within the frame (R144). -/
theorem inPulse_iff {g : OutputGenerator} {h : Chan} (hposition : g.position < 4096) (hpulse : g.pulse.get h ≤ 4096) :
    inPulse g h = true ↔ ∃ i, i < g.pulse.get h ∧ g.position = (h.val % 8 * 512 + i) % 4096 := by
  have hstart : h.val % 8 < 8 := Nat.mod_lt _ (by decide)
  rw [inPulse, decide_eq_true_iff]
  change (g.position + 4096 - h.val % 8 * 512) % 4096 < _ ↔ _
  constructor
  · intro hlt
    exact ⟨_, hlt, by omega⟩
  · rintro ⟨i, hi, hp⟩
    omega

/-- Settles O43. -/
theorem pinsFollowThePulsesAndQueues : Obligations.PinsFollowThePulsesAndQueues := by
  intro s
  refine ⟨fun hr => ⟨fun h => if_pos (resetLasts_of_lasting hr), fun p => ?_⟩, fun hr => ⟨fun p => ?_, fun h hposition hpulse => ?_⟩⟩
  · rw [atnAsserted, resetLasts_of_lasting hr]
    rfl
  · simp [atnAsserted, resetLasts_of_none hr]
  · have hon : (s.output.appliedEnable.get h && inPulse s.output h) = true ↔ (s.output.appliedEnable.get h = true ∧
        ∃ i, i < s.output.pulse.get h ∧ s.output.position = (h.val % 8 * 512 + i) % 4096) := by
      rw [Bool.and_eq_true, inPulse_iff hposition hpulse]
    rw [← hon, outHigh, if_neg (by rw [resetLasts_of_none hr]; decide)]
    dsimp only
    generalize (s.output.appliedEnable.get h && inPulse s.output h) = on
    cases s.output.appliedPolarity.get h with
    | activeHigh => simp
    | activeLow => cases on <;> simp

end Sys2Proof.Machine
end
